-- ==== Sys2Proof/Word.lean ====
section
/-!
DEFINITION. The word types and the plain value types of the block: bytes, register numbers, the format
descriptor (spec R5, R12) and the `Number` variant (spec R11). They hold no state and compute nothing
but the length of an encoding.
-/
namespace Sys2Proof

/-- The unit of both byte channels (R60) and the width of `CTRL` (R22). -/
abbrev Byte := BitVec 8

/-- A host register number: four bits (R21). -/
abbrev RegNo := BitVec 4

/-- A format descriptor `(E, M, bias)` (R5): `e` and `m` are field widths in bits, `bias` any integer. -/
structure Descriptor where
  e    : Nat
  m    : Nat
  bias : Int
  deriving DecidableEq, Repr

/-- `N = 1 + E + M`, the length of an encoding in bits, computed exactly (R7, R12). -/
def Descriptor.n (d : Descriptor) : Nat := 1 + d.e + d.m

/-- R12, R82: a descriptor is valid exactly when its encodings are a whole number of bytes. -/
abbrev Descriptor.Valid (d : Descriptor) : Prop := d.n % 8 = 0

/-- The four cases of a number (R11). The sign is a bit, `true` meaning negative; a NaN has neither sign
nor payload; `finite s e m` has the value `(-1)^s * m * 2^e`. -/
inductive Number where
  | zero     (s : Bool)
  | infinity (s : Bool)
  | nan
  | finite   (s : Bool) (e : Int) (m : Nat)
  deriving DecidableEq, Repr

end Sys2Proof
end

