-- ==== Sys2Proof/Syntax.lean ====
section
/-!
DEFINITION. The commands of the block (one constructor per row of spec/opcode_table.json), the register
names (R94) and the lines of a host program in the spec's assembler syntax (R95, R96).
-/
namespace Sys2Proof

/-- The five commands (R90). `WRB` carries the bit it writes (R89, `WBIT`); the other operands of a command
are registers, latched at its acceptance (R45, R93). -/
inductive Instr where
  /-- `ENC` (R130): encode the number in `IN_*` and send its bytes to the sink. -/
  | enc
  /-- `DEC` (R160): read one encoding from the source and decode it into `OUT_*`. -/
  | dec
  /-- `RDB` (R117): read one bit from the source stream into `STATUS.RBIT`. -/
  | rdb
  /-- `WRB w` (R118): write the bit `w` to the sink stream. -/
  | wrb (w : Bool)
  /-- `SINIT` (R119): re-initialise both adapters. -/
  | sinit
  deriving DecidableEq, Repr

/-- The named host registers (R94; the register map of 10_state.md section 3). -/
inductive Reg where
  | ctrl | status | fmtE | fmtM | fmtBias | inKind | inExp | inMant
  | outKind | outExp | outMant | rdState | wrState
  deriving DecidableEq, Repr

/-- The number of a named register (R94). -/
def Reg.number : Reg → RegNo
  | .ctrl    => 0x0
  | .status  => 0x1
  | .fmtE    => 0x2
  | .fmtM    => 0x3
  | .fmtBias => 0x4
  | .inKind  => 0x5
  | .inExp   => 0x6
  | .inMant  => 0x7
  | .outKind => 0x8
  | .outExp  => 0x9
  | .outMant => 0xA
  | .rdState => 0xB
  | .wrState => 0xC

/-- The standard descriptors that the pseudo-instruction `LDFMT` names (R86, R96). -/
inductive StdFormat where
  | half | single | double | quadruple
  deriving DecidableEq, Repr

/-- The five singleton operands that the pseudo-instruction `LDNUM` names (R88, R96). -/
inductive Singleton where
  | posZero | negZero | posInf | negInf | nan
  deriving DecidableEq, Repr

/-- One line of a host program (R95, R96). -/
inductive AsmLine where
  /-- A command by its mnemonic: one `HostWrite` of `CTRL` (R95). -/
  | cmd (i : Instr)
  /-- `SET reg, v` (R95). -/
  | set (r : Reg) (v : Int)
  /-- `GET reg` (R95). -/
  | get (r : Reg)
  /-- `WAIT` (R95). -/
  | wait
  /-- `LDFMT E, M, bias` (R96). -/
  | ldfmt (e m : Nat) (bias : Int)
  /-- `LDFMT Half` and its three fellows (R96). -/
  | ldfmtStd (f : StdFormat)
  /-- `LDNUM +0` and its four fellows (R96). -/
  | ldnumSingleton (n : Singleton)
  /-- `LDNUM s, e, m` (R96). -/
  | ldnum (s : Bool) (e : Int) (m : Nat)
  /-- `ENCW` (R96). -/
  | encw
  /-- `DECW` (R96). -/
  | decw
  deriving DecidableEq, Repr

end Sys2Proof
end

