-- ==== Sys2Proof/Config.lean ====
section
/-!
DEFINITION. What one instance of the block fixes (the five implementation parameters of R6), the values
the reference model gives them, the standard descriptors of R86, and the one free value of the model.
-/
namespace Sys2Proof

/-- The five implementation parameters of an instance (R6). A width that is `none` is unbounded: the register
then holds a mathematical integer, as the reference model's do. -/
structure Params where
  /-- `E_MAX`, the largest exponent-field width the instance accepts. -/
  eMax  : Nat
  /-- `M_MAX`, the largest mantissa-field width the instance accepts. -/
  mMax  : Nat
  /-- `BIAS_W`, the width of `FMT_BIAS`, two's complement. -/
  biasW : Option Nat
  /-- `NUM_EXP_W`, the width of `IN_EXP` and `OUT_EXP`, two's complement. -/
  expW  : Option Nat
  /-- `NUM_MANT_W`, the width of `IN_MANT` and `OUT_MANT`, unsigned. -/
  mantW : Option Nat
  deriving DecidableEq, Repr

/-- The reference model's parameter values (the last column of the table in R6). -/
def Config.reference : Params where
  eMax  := 2 ^ 32 - 1
  mMax  := 2 ^ 32 - 1
  biasW := none
  expW  := none
  mantW := none

/-- FREE VALUE (log entry 5). What `IN_MANT` holds after a host write of a negative number to an instance whose
`IN_MANT` is unbounded: the spec says only that a negative mantissa cannot be given (92_eei_decisions.md D2)
and states no result. It is applied to the counter `State.draws`, so that two draws need not agree. -/
opaque Config.freeMantissa : Nat → Nat

/-- The standard descriptors (R86). The block has no selector for them: a host programs them like any other. -/
def Config.standard : StdFormat → Descriptor
  | .half      => { e := 5,  m := 10,  bias := 15 }
  | .single    => { e := 8,  m := 23,  bias := 127 }
  | .double    => { e := 11, m := 52,  bias := 1023 }
  | .quadruple => { e := 15, m := 112, bias := 16383 }

end Sys2Proof
end

