-- ==== Sys2Proof/WellFormed.lean ====
section
/-!
DEFINITION. What is well-formed: a command (every term of `Instr` is one, since the only operand inside a
command word is one bit), a line of a host program, and an instance of the block (the constraints of R6).
-/
namespace Sys2Proof

/-- R89, R93: a command word has no operand but `WBIT`, and both values of that bit are legal, so every
command is well-formed. -/
def Instr.wf : Instr → Bool
  | .enc   => true
  | .dec   => true
  | .rdb   => true
  | .wrb _ => true
  | .sinit => true

/-- A line of a host program is well-formed when it writes no read-only register and no value that a register
of the reference model cannot take: `FMT_E` and `FMT_M` have 32 bits (R29, R30), `CTRL` and `IN_KIND` eight
(R22, R32), `IN_MANT` is unsigned (R34). What the block does with an ill-formed `SET` is R41. -/
def AsmLine.wf : AsmLine → Bool
  | .set .ctrl v    => 0 ≤ v ∧ v < 256
  | .set .inKind v  => 0 ≤ v ∧ v < 256
  | .set .fmtE v    => 0 ≤ v ∧ v < 2 ^ 32
  | .set .fmtM v    => 0 ≤ v ∧ v < 2 ^ 32
  | .set .inMant v  => 0 ≤ v
  | .set .fmtBias _ => true
  | .set .inExp _   => true
  | .set .status _  => false
  | .set .outKind _ => false
  | .set .outExp _  => false
  | .set .outMant _ => false
  | .set .rdState _ => false
  | .set .wrState _ => false
  | .ldfmt e m _    => e < 2 ^ 32 ∧ m < 2 ^ 32
  | .cmd i          => i.wf
  | .get _          => true
  | .wait           => true
  | .ldfmtStd _     => true
  | .ldnumSingleton _ => true
  | .ldnum _ _ _    => true
  | .encw           => true
  | .decw           => true

/-- R6: every exponent that the decoder can return fits `NUM_EXP_W` bits. A decoded exponent lies between
`1 - M - bias` and `allOnes(E) - 1 - bias` (R173), so the two extremes over the widths and biases the
instance accepts decide it. (For an instance with `E_MAX = 0`, which decodes no finite number, the check asks
more than R6 does.) -/
def Params.exponentsFit (p : Params) : Bool :=
  match p.expW, p.biasW with
  | none, _ => true
  | some _, none => false
  | some w, some b =>
      1 ≤ w ∧ -(2 ^ (w - 1) : Int) ≤ 2 - p.mMax - 2 ^ (b - 1) ∧
      (2 ^ p.eMax - 2 + 2 ^ (b - 1) : Int) ≤ 2 ^ (w - 1) - 1

/-- R6: the constraints on the five parameters of an instance. -/
def Params.wf (p : Params) : Bool :=
  decide (p.eMax ≤ 2 ^ 32 - 1) && decide (p.mMax ≤ 2 ^ 32 - 1) &&
  (match p.biasW with | none => true | some w => decide (1 ≤ w)) &&
  (match p.mantW with | none => true | some w => decide (p.mMax + 1 ≤ w)) &&
  p.exponentsFit

end Sys2Proof
end

