-- ==== Sys2Proof/Decode.lean ====
section
/-!
DEFINITION. The command decoder (R89 to R92), total on every byte and rejecting by name, then the encoder
written from the same map, and the host's fixed name `decodeTableWord`.
-/
namespace Sys2Proof

/-- Why a byte written to `CTRL` is no command (R91). All three end as `IllegalCommand` (R187). -/
inductive DecodeReject where
  /-- A bit of [7:5] is set. -/
  | reservedBits
  /-- Bit 4 is set and `OP` is not 0x4. -/
  | wbitWithoutWrb
  /-- `OP` is 0x0 or 0x6 to 0xF. -/
  | unassignedOp
  deriving DecidableEq, Repr

/-- `CTRL.OP`, bits [3:0] (R22, R89). -/
def ctrlOp (v : Byte) : BitVec 4 := v.extractLsb' 0 4

/-- `CTRL.WBIT`, bit [4] (R22, R89). -/
def ctrlWbit (v : Byte) : Bool := v.getLsbD 4

/-- The reserved bits [7:5] of `CTRL` (R22, R89). -/
def ctrlReserved (v : Byte) : BitVec 3 := v.extractLsb' 5 3

/-- R90, R91: the decoder is a match on all eight bits, except bit 4 for `WRB`. -/
def decode (v : Byte) : Except DecodeReject Instr :=
  if ctrlReserved v ≠ 0 then .error .reservedBits
  else if ctrlOp v = 0x4 then .ok (.wrb (ctrlWbit v))
  else if ctrlWbit v then .error .wbitWithoutWrb
  else if ctrlOp v = 0x1 then .ok .enc
  else if ctrlOp v = 0x2 then .ok .dec
  else if ctrlOp v = 0x3 then .ok .rdb
  else if ctrlOp v = 0x5 then .ok .sinit
  else .error .unassignedOp

/-- The opcode of a command (the `OP` column of R90). -/
def opOf : Instr → BitVec 4
  | .enc   => 0x1
  | .dec   => 0x2
  | .rdb   => 0x3
  | .wrb _ => 0x4
  | .sinit => 0x5

/-- The `WBIT` of a command: the bit of `WRB`, 0 for every other command (R89). It is what `LWBIT` latches
(R45). -/
def wbitOf : Instr → Bool
  | .wrb w => w
  | .enc   => false
  | .dec   => false
  | .rdb   => false
  | .sinit => false

/-- The `CTRL8` word of a command (R89): three reserved zeros, `WBIT`, `OP`. -/
def encode (i : Instr) : Byte := (0 : BitVec 3) ++ BitVec.ofBool (wbitOf i) ++ opOf i

/-- The instruction whose table bits are `w` (the host's fixed name). A command is one byte (R92), and `CTRL`
keeps the low eight bits of what is written to it (R41). -/
def decodeTableWord (nbits w : Nat) : Option Instr :=
  (decode (BitVec.ofNat 8 (w % 2 ^ nbits))).toOption

end Sys2Proof
end

