-- ==== Sys2Proof/Machine/State.lean ====
section
/-!
DEFINITION. The state of the block and of the three agents around it (R13, R20), the reasons a step can stop,
and the state right after reset (R210). Every field cites the rule that names it and its reset value.
-/
namespace Sys2Proof.Machine

/-- Why the machine stops with a fault: never. The block has no traps (60_exceptions.md, opening words), every
error is reported in `STATUS.ERR` by a next state (R180), and a hang is an infinite execution (R200), so this
type has no constructor. -/
inductive Fault where
  deriving DecidableEq, Repr

/-- Why a step is refused. -/
inductive Refusal where
  /-- An instruction whose meaning is not written yet, raised by `exec` alone. Safe: it only leaves claims
  unprovable. No arm of this model uses it. -/
  | notModelled (mnemonic : String)
  /-- Raised by the completion of `DEC` when the instance's `NUM_EXP_W` or `NUM_MANT_W` cannot hold the decoded
  exponent or mantissa. Such an instance violates R6 and "Its behaviour is outside this spec" (R170;
  93_implementation_defined.md U8, treatment `refuse`). Safe: the model stops where the spec says nothing.
  The reference model never raises it. -/
  | resultWiderThanInstance
  deriving DecidableEq, Repr

/-- The error kinds a command can end with (R181). -/
inductive ErrorKind where
  | invalidFormat | exponentOverflow | ioFailure | invalidOperand | formatUnsupported | illegalCommand
  deriving DecidableEq, Repr

/-- The fields of register `STATUS` (R23). `RFAIL` and `WFAIL` are also adapter state (R20, R28) and have their
one home here. -/
structure Status where
  /-- Bit [0] (R24). Reset 0. -/
  busy  : Bool
  /-- Bit [1] (R25). Reset 0. -/
  done  : Bool
  /-- Bits [4:2] (R26). Reset 0. -/
  err   : BitVec 3
  /-- Bit [5] (R27). Reset 0. -/
  rbit  : Bool
  /-- Bit [6] (R28). Reset 0. -/
  rfail : Bool
  /-- Bit [7] (R28). Reset 0. -/
  wfail : Bool
  deriving DecidableEq, Repr

/-- The sequencer's phase (R44). -/
inductive Phase where
  | idle | enc | dec | rdb | wrb
  deriving DecidableEq, Repr

/-- The pending byte transaction (R49): none, an unanswered `MemRead(SRC, 1)`, or an unanswered
`MemWrite(SNK, 1, b)`. -/
inductive Pend where
  | none
  | src
  | snk (b : Byte)
  deriving DecidableEq, Repr

/-- The operands latched at acceptance (R44, R45). -/
structure Latched where
  /-- `LE`: the 32 bits of `FMT_E`. -/
  e    : BitVec 32
  /-- `LM`: the 32 bits of `FMT_M`. -/
  m    : BitVec 32
  /-- `LBIAS`: `sext(FMT_BIAS)`. -/
  bias : Int
  /-- `LTAG`: `IN_KIND.TAG`. -/
  tag  : BitVec 2
  /-- `LSIGN`: `IN_KIND.SIGN`. -/
  sign : Bool
  /-- `LEXP`: `sext(IN_EXP)`. -/
  exp  : Int
  /-- `LMANT`: `zext(IN_MANT)`. -/
  mant : Nat
  /-- `LWBIT`: `CTRL.WBIT`. -/
  wbit : Bool
  deriving DecidableEq, Repr

/-- The source's answer to one `MemRead(SRC, 1)` (R61). -/
inductive SrcAnswer where
  | ok (b : Byte)
  | fail
  deriving DecidableEq, Repr

/-- The sink's answer to one `MemWrite(SNK, 1, b)` (R62). -/
inductive SnkAnswer where
  | ok
  | fail
  deriving DecidableEq, Repr

/-- What the world outside does next (R13, R21): one entry is one move in the total order of host and block
steps (R73). -/
inductive Input where
  /-- The reset input is asserted (R210, R211). `carriedOut` is the collaborator's choice for a transaction
  pending at that moment: true when it carries the transaction out all the same. -/
  | reset (carriedOut : Bool)
  /-- `HostWrite(r, v)` (R21, R41). -/
  | write (r : RegNo) (v : Int)
  /-- `HostRead(r)` (R21, R41). -/
  | read (r : RegNo)
  /-- The polling loop `WAIT` (R95): it stays at the head, the block moving, until `STATUS.BUSY = 0`. -/
  | wait
  /-- The host does nothing and the block takes its own step. -/
  | block
  deriving DecidableEq, Repr

/-- The whole machine: the instance's parameters, the block's state (R20), and the agents around it (R13). -/
structure State where
  /-- The parameters of this instance (R6). No step changes them. The reset state has the reference model's. -/
  params  : Params
  /-- Register 0x1 (R23 to R28). Reset 0x00. -/
  status  : Status
  /-- Register 0x2, 32 bits, unsigned (R29). Reset 0. -/
  fmtE    : BitVec 32
  /-- Register 0x3, 32 bits, unsigned (R30). Reset 0. -/
  fmtM    : BitVec 32
  /-- Register 0x4, `BIAS_W` bits, read through `sext` (R31). Reset 0. -/
  fmtBias : Int
  /-- Register 0x5, 8 bits (R32). Reset 0x00. -/
  inKind  : Byte
  /-- Register 0x6, `NUM_EXP_W` bits, read through `sext` (R33). Reset 0. -/
  inExp   : Int
  /-- Register 0x7, `NUM_MANT_W` bits, read through `zext` (R34). Reset 0. -/
  inMant  : Nat
  /-- Register 0x8, 8 bits (R35). Reset 0x00. -/
  outKind : Byte
  /-- Register 0x9, `NUM_EXP_W` bits (R36). Reset 0. -/
  outExp  : Int
  /-- Register 0xA, `NUM_MANT_W` bits (R37). Reset 0. -/
  outMant : Nat
  /-- `RCUR`, the last byte fetched (R38). Reset 0x00. -/
  rcur    : Byte
  /-- `RMASK`, the mask of the next bit to deliver (R38, R42). Reset 0x00. -/
  rmask   : Byte
  /-- `WACC`, the bits assembled so far (R39, R43). Reset 0x00. -/
  wacc    : Byte
  /-- `WMASK`, the mask of the next bit to fill (R39, R43). Reset 0x80. -/
  wmask   : Byte
  /-- `PHASE` (R44). Reset `IDLE`. -/
  phase   : Phase
  /-- `LE` .. `LWBIT` (R44, R45). The spec gives no reset value: DESIGN CHOICE zeros (log entry 1). -/
  lat     : Latched
  /-- `K`, the bit-step counter (R46). Reset 0. -/
  k       : Nat
  /-- `BUF` (R44). Reset empty. -/
  buf     : List Bool
  /-- `PEND` (R49). Reset none. -/
  pend    : Pend
  /-- The model's own (log entry 2): the running `ENC` or `DEC` has passed its checks and set up its adapter,
  `BUF` and `K`, so that its next step is a bit step. Reset false. -/
  opened  : Bool
  /-- The model's own (log entry 5): how many free values have been drawn. DESIGN CHOICE: reset 0. -/
  draws   : Nat
  /-- The moves of the world outside still to come, in order; when none is left the block moves (log entry 3). -/
  inputs  : List Input
  /-- The answers the source gives to the requests still to come, in order; empty: not answered (R61, R200). -/
  source  : List SrcAnswer
  /-- The answers the sink gives to the requests still to come, in order; empty: not answered (R62, R200). -/
  sink    : List SnkAnswer
  /-- The bytes the source has given up so far, oldest first (R70, R71). -/
  drawn   : List Byte
  /-- The bytes the sink has acknowledged so far, oldest first (R71). -/
  sunk    : List Byte
  /-- What each `HostRead` so far has returned, oldest first (R41, R73). -/
  seen    : List (RegNo × Int)
  deriving DecidableEq, Repr

/-- The outcome of a step of this machine. -/
abbrev Out := Host.Outcome State Fault Refusal

/-- The latched operands right after reset. The spec leaves them unspecified (R44; 93_implementation_defined.md
U11): DESIGN CHOICE, all zero (log entry 1). -/
def Latched.atReset : Latched :=
  { e := 0, m := 0, bias := 0, tag := 0, sign := false, exp := 0, mant := 0, wbit := false }

/-- `STATUS` right after reset: 0x00 (R23, R210). -/
def Status.atReset : Status :=
  { busy := false, done := false, err := 0, rbit := false, rfail := false, wfail := false }

/-- The machine right after reset (R210), with nothing yet to come from outside: the reference model's
parameters, every register at its reset value, idle. -/
def State.reset : State where
  params  := Config.reference
  status  := Status.atReset
  fmtE    := 0
  fmtM    := 0
  fmtBias := 0
  inKind  := 0x00
  inExp   := 0
  inMant  := 0
  outKind := 0x00
  outExp  := 0
  outMant := 0
  rcur    := 0x00
  rmask   := 0x00
  wacc    := 0x00
  wmask   := 0x80
  phase   := .idle
  lat     := Latched.atReset
  k       := 0
  buf     := []
  pend    := .none
  opened  := false
  draws   := 0
  inputs  := []
  source  := []
  sink    := []
  drawn   := []
  sunk    := []
  seen    := []

end Sys2Proof.Machine
end

