-- ==== Sys2Proof/Machine/Flags.lean ====
section
/-!
DEFINITION. The status register: the codes of the errors (R181) and the words a host reads from `STATUS` (R23),
`RD_STATE` (R38) and `WR_STATE` (R39). The block has no arithmetic flags (R48).
-/
namespace Sys2Proof.Machine

/-- R181: the code of an error in `STATUS.ERR`. -/
def errorCode : ErrorKind → BitVec 3
  | .invalidFormat     => 1
  | .exponentOverflow  => 2
  | .ioFailure         => 3
  | .invalidOperand    => 4
  | .formatUnsupported => 5
  | .illegalCommand    => 6

/-- R23: the word of `STATUS`, `WFAIL` in bit 7 down to `BUSY` in bit 0. -/
def statusWord (t : Status) : Byte :=
  BitVec.ofBool t.wfail ++ BitVec.ofBool t.rfail ++ BitVec.ofBool t.rbit ++ t.err ++
    BitVec.ofBool t.done ++ BitVec.ofBool t.busy

/-- R38: the word of `RD_STATE`, `RMASK` above `RCUR`. -/
def rdStateWord (s : State) : BitVec 16 := s.rmask ++ s.rcur

/-- R39: the word of `WR_STATE`, `WMASK` above `WACC`. -/
def wrStateWord (s : State) : BitVec 16 := s.wmask ++ s.wacc

end Sys2Proof.Machine
end

