-- ==== Sys2Proof/Machine/Bits.lean ====
section
/-!
DEFINITION. The integer helpers of R10 and the bit-sequence notation of R8, each under the spec's name for it.
A bit sequence is a list of bits, written left to right in the order they are transferred.
-/
namespace Sys2Proof.Machine

/-- R10 `bitLength(n)`: the least `k` with `n < 2^k`. -/
def bitLength (n : Nat) : Nat := if n = 0 then 0 else n.log2 + 1

/-- R10 `testBit(n, i)`: bit `i` of `n`, and 0 for every negative index. -/
def testBitAt (n : Nat) (i : Int) : Bool := if i < 0 then false else n.testBit i.toNat

/-- R10 `allOnes(E)`: the value of an `E`-bit field with every bit set. -/
def allOnes (E : Nat) : Nat := 2 ^ E - 1

/-- R8 `bitsE(v, n)`: the `n` low bits of `v`, from bit `n-1` down to bit 0. -/
def bitsE (v : Nat) : Nat → List Bool
  | 0     => []
  | n + 1 => v.testBit n :: bitsE v n

/-- R81: the unsigned integer held in a bit sequence, its first bit the most significant. -/
def ofBits (bs : List Bool) : Nat := bs.foldl (fun acc b => 2 * acc + b.toNat) 0

/-- R10 `popcount(n)`: the number of 1 bits in `n`. -/
def popcount (n : Nat) : Nat := (bitsE n (bitLength n)).count true

/-- The count of trailing zero bits of `n`, looking at no more than `fuel` bits. -/
def ctzUpTo : Nat → Nat → Nat
  | 0,        _ => 0
  | fuel + 1, n => if n % 2 = 1 then 0 else 1 + ctzUpTo fuel (n / 2)

/-- R10 `ctz(n)` for `n > 0`: the largest `t` with `2^t` dividing `n`. -/
def ctz (n : Nat) : Nat := ctzUpTo (bitLength n) n

/-- R8 `x^n`: `n` copies of one bit. -/
def copies (x : Bool) (n : Nat) : List Bool := List.replicate n x

end Sys2Proof.Machine
end

