-- ==== Sys2Proof/Machine/Codec.lean ====
section
/-!
DEFINITION. The two pure functions of the codec: `EncodeBits` (R132 to R141) and `DecodeBits` (R163 to R169),
over exact integers (R7). 90_conflicts.md C1 and C2 govern the base exponents and the value formula.
-/
namespace Sys2Proof.Machine

/-- R141: the `n` mantissa bits of `m` from index `start` downwards, zero for every index that runs negative. -/
def mantissaBits (m : Nat) (start : Int) : Nat → List Bool
  | 0     => []
  | n + 1 => testBitAt m start :: mantissaBits m (start - 1) n

/-- R80, R141: an encoding is sign, exponent field high-to-low, mantissa bits. -/
def assemble (s : Bool) (exponent mantissa : List Bool) : List Bool := s :: (exponent ++ mantissa)

/-- R137: `L`, the position of the top set bit of `m`. -/
def significandLength (m : Nat) : Int := (bitLength m : Int) - 1

/-- R137: `f = e + bias + L`, the biased exponent of the top bit. -/
def biasedExponent (e : Int) (m : Nat) (d : Descriptor) : Int := e + d.bias + significandLength m

/-- R137 to R141: the encoding of a finite number, or `none` for `Overflow`. -/
def encodeFinite (s : Bool) (e : Int) (m : Nat) (d : Descriptor) : Option (List Bool) :=
  let f := biasedExponent e m d
  if f ≤ 0 then
    if (d.m : Int) + f ≤ 0 then
      some (assemble s (copies false d.e) (copies false d.m))                                -- R138
    else
      some (assemble s (bitsE 0 d.e) (mantissaBits m (significandLength m - f) d.m))         -- R139
  else if (allOnes d.e : Int) ≤ f then
    none                                                                                     -- R140
  else
    some (assemble s (bitsE f.toNat d.e) (mantissaBits m (significandLength m - 1) d.m))     -- R140

/-- R136: the mantissa field of the NaN the encoder writes, empty when `M = 0`. -/
def nanMantissa : Nat → List Bool
  | 0     => []
  | M + 1 => true :: copies false M

/-- R132, R134 to R141: `EncodeBits(n, E, M, bias)`, with `none` for `Overflow`. -/
def encodeBits (n : Number) (d : Descriptor) : Option (List Bool) :=
  match n with
  | .zero s       => some (assemble s (copies false d.e) (copies false d.m))
  | .infinity s   => some (assemble s (copies true d.e) (copies false d.m))
  | .nan          => some (assemble false (copies true d.e) (nanMantissa d.m))
  | .finite s e m => encodeFinite s e m d

/-- R163: the sign bit of an encoding. -/
def signOf (B : List Bool) : Bool := B.headD false

/-- R163: the exponent field `f` of an encoding. -/
def exponentField (B : List Bool) (d : Descriptor) : Nat := ofBits ((B.drop 1).take d.e)

/-- R163: the mantissa field `mf` of an encoding. -/
def mantissaField (B : List Bool) (d : Descriptor) : Nat := ofBits ((B.drop (1 + d.e)).take d.m)

/-- R168, R169: strip the trailing zeros of the raw significand and give the exponent its final value. -/
def normalise (s : Bool) (mant0 : Nat) (base : Int) (f : Nat) (bias : Int) : Number :=
  let t := ctz mant0
  .finite s (base + t + f - bias) (mant0 / 2 ^ t)

/-- R164 to R169: the number that three fields stand for. -/
def decodeFields (s : Bool) (f mf : Nat) (d : Descriptor) : Number :=
  if popcount f = d.e then
    if mf ≠ 0 then .nan else .infinity s                       -- R164
  else if f = 0 then
    if mf = 0 then .zero s                                     -- R165
    else normalise s mf (1 - d.m) f d.bias                     -- R166, with 90_conflicts.md C1
  else normalise s (mf + 2 ^ d.m) (-d.m) f d.bias              -- R167, with 90_conflicts.md C1

/-- R163: `DecodeBits(B, E, M, bias)`, total. -/
def decodeBits (B : List Bool) (d : Descriptor) : Number :=
  decodeFields (signOf B) (exponentField B d) (mantissaField B d) d

end Sys2Proof.Machine
end

