-- ==== Sys2Proof/Machine/Operands.lean ====
section
/-!
DEFINITION. Operand assembly: keeping the low bits of a value in a register of finite width (R41), latching
the operands of a command (R45, R93), and reading the latched copies as a descriptor and a number (R88, R132).
-/
namespace Sys2Proof.Machine

/-- R41: a two's complement register of the given width keeps the low bits of a value and is read through
`sext`; an unbounded one keeps the integer. -/
def keepSigned : Option Nat → Int → Int
  | none,   v => v
  | some w, v => v.bmod (2 ^ w)

/-- R41: an unsigned register of width `w` keeps the low `w` bits of a value and is read through `zext`. -/
def keepUnsigned (w : Nat) (v : Int) : Nat := (v % (2 ^ w : Int)).toNat

/-- Whether an unsigned register of the given width holds the value `v` whole (R6). -/
def fitsUnsigned : Option Nat → Nat → Bool
  | none,   _ => true
  | some w, v => v < 2 ^ w

/-- Whether a two's complement register of the given width holds the value `v` whole (R6). -/
def fitsSigned (w : Option Nat) (v : Int) : Bool := keepSigned w v = v

/-- The field `TAG`, bits [1:0], of `IN_KIND` and `OUT_KIND` (R32, R35). -/
def kindTag (k : Byte) : BitVec 2 := k.extractLsb' 0 2

/-- The field `SIGN`, bit [2], of `IN_KIND` and `OUT_KIND` (R32, R35). -/
def kindSign (k : Byte) : Bool := k.getLsbD 2

/-- R32: the reserved bits [7:3] of `IN_KIND` ignore writes and read 0. -/
def keepKind (v : Byte) : Byte := v &&& 0x07

/-- The word of a tag and a sign in `IN_KIND` and `OUT_KIND` (R88). -/
def kindWord (sign : Bool) (tag : BitVec 2) : Byte := (0 : BitVec 5) ++ BitVec.ofBool sign ++ tag

/-- R45: the copies of the operands a command takes at its acceptance; `wbit` is `CTRL.WBIT`. -/
def latchOperands (wbit : Bool) (s : State) : Latched where
  e    := s.fmtE
  m    := s.fmtM
  bias := s.fmtBias
  tag  := kindTag s.inKind
  sign := kindSign s.inKind
  exp  := s.inExp
  mant := s.inMant
  wbit := wbit

/-- The descriptor a command works under (R93): `(LE, LM, LBIAS)`. -/
def Latched.descriptor (l : Latched) : Descriptor :=
  { e := l.e.toNat, m := l.m.toNat, bias := l.bias }

/-- R132, R88: the number a command works on, `number(LTAG, LSIGN, LEXP, LMANT)`. -/
def Latched.number (l : Latched) : Number :=
  if l.tag = 0 then .zero l.sign
  else if l.tag = 1 then .infinity l.sign
  else if l.tag = 2 then .nan
  else .finite l.sign l.exp l.mant

/-- `OUT_KIND` of a decoded number (R170; R35: a NaN has `SIGN = 0`). -/
def outKindOf : Number → Byte
  | .zero s       => kindWord s 0
  | .infinity s   => kindWord s 1
  | .nan          => kindWord false 2
  | .finite s _ _ => kindWord s 3

/-- `OUT_EXP` of a decoded number (R170): 0 unless it is finite. -/
def outExpOf : Number → Int
  | .zero _       => 0
  | .infinity _   => 0
  | .nan          => 0
  | .finite _ e _ => e

/-- `OUT_MANT` of a decoded number (R170): 0 unless it is finite. -/
def outMantOf : Number → Nat
  | .zero _       => 0
  | .infinity _   => 0
  | .nan          => 0
  | .finite _ _ m => m

end Sys2Proof.Machine
end

