-- ==== Sys2Proof/Machine/Ops.lean ====
section
/-!
DEFINITION. The shared operations of the block: accepting a command (R90, R45), ending one (R180), the two
adapter initialisations (R115), the two bit primitives with their port transactions (R110, R113), the checks
of a descriptor (R131, R161), the reset input (R210, R211), and the host's access to the registers (R41).
-/
namespace Sys2Proof.Machine

/-! ## How a command starts and ends -/

/-- R90, R45: acceptance of a command. One step sets `BUSY`, clears `DONE` and `ERR`, latches the operands and
enters the command's phase. -/
def accept (ph : Phase) (wbit : Bool) (s : State) : State :=
  { s with
    status := { s.status with busy := true, done := false, err := 0 }
    lat := latchOperands wbit s
    phase := ph
    opened := false }

/-- R180: the step that ends a command, with the code it leaves in `ERR`. -/
def endCommand (code : BitVec 3) (s : State) : State :=
  { s with
    status := { s.status with busy := false, done := true, err := code }
    phase := .idle
    opened := false }

/-- R180 `complete`: the command ends without error. -/
def complete (s : State) : State := endCommand 0 s

/-- R180 `raise`: the command ends with an error, which the host reads in `STATUS.ERR` (R181). This is the
block's whole exception entry: "The block has no vector, handler, saved program counter or mode change". There
is no return from it (R191). -/
def raise (e : ErrorKind) (s : State) : State := endCommand (errorCode e) s

/-- R187: a write of an illegal value to `CTRL` is accepted and ended in one step; `BUSY` stays 0 and nothing
else changes. -/
def illegalCommand (s : State) : State :=
  { s with status := { s.status with done := true, err := errorCode .illegalCommand } }

/-! ## The adapters -/

/-- R115 `ReaderInit()`. -/
def readerInit (s : State) : State :=
  { s with rcur := 0x00, rmask := 0x00, status := { s.status with rfail := false } }

/-- R115 `WriterInit()`. -/
def writerInit (s : State) : State :=
  { s with wacc := 0x00, wmask := 0x80, status := { s.status with wfail := false } }

/-- R110, last three lines: the bit of `RCUR` that `RMASK` points at is delivered and the mask moves right. -/
def deliverBit (cont : Bool → State → Out) (s : State) : Out :=
  cont (s.rcur &&& s.rmask != 0) { s with rmask := s.rmask >>> 1 }

/-- R61, R110, R112: the answer to a pending `MemRead(SRC, 1)` is received. -/
def receiveSource (cont : Bool → State → Out) (s : State) : Out :=
  match s.source with
  | []              => .next s                                                    -- R200: not answered, the block waits
  | .fail :: rest   =>
      .next (raise .ioFailure
        { s with pend := .none, source := rest, status := { s.status with rfail := true } })
  | .ok b :: rest   =>
      deliverBit cont
        { s with pend := .none, source := rest, drawn := s.drawn ++ [b], rcur := b, rmask := 0x80 }

/-- R110 `readBit()`, with `cont` what the command does with the bit. A bit that needs a byte takes two steps
(R222): one issues the request, one receives the answer. -/
def readBit (cont : Bool → State → Out) (s : State) : Out :=
  match s.pend with
  | .src   => receiveSource cont s
  | .snk _ => .next s                                                             -- R49: no step but the answer
  | .none  => if s.rmask = 0x00 then .next { s with pend := .src } else deliverBit cont s

/-- R62, R113, R114: the answer to a pending `MemWrite(SNK, 1, b)` is received. -/
def receiveSink (cont : State → Out) (b : Byte) (s : State) : Out :=
  match s.sink with
  | []            => .next s                                                      -- R200: not answered, the block waits
  | .fail :: rest =>
      .next (raise .ioFailure
        { s with pend := .none, sink := rest, status := { s.status with wfail := true } })
  | .ok :: rest   => cont { s with pend := .none, sink := rest, sunk := s.sunk ++ [b] }

/-- R113: bit `b` goes into `WACC` at position `WMASK`. -/
def accumulate (b : Bool) (s : State) : Byte := if b then s.wacc ||| s.wmask else s.wacc

/-- R113 `writeBit(b)`, with `cont` what the command does once the bit is written. The bit that completes a byte
takes two steps (R222): one issues the request, one receives the answer. -/
def writeBit (b : Bool) (cont : State → Out) (s : State) : Out :=
  match s.pend with
  | .snk out => receiveSink cont out s
  | .src     => .next s                                                           -- R49: no step but the answer
  | .none    =>
      if s.wmask >>> 1 = 0x00 then
        .next { s with wacc := 0x00, wmask := 0x80, pend := .snk (accumulate b s) }
      else cont { s with wacc := accumulate b s, wmask := s.wmask >>> 1 }

/-! ## The checks of a descriptor -/

/-- R131, R161, R188: the two checks that `ENC` and `DEC` share, in order. -/
def checkFormat (p : Params) (d : Descriptor) : Option ErrorKind :=
  if d.n % 8 ≠ 0 then some .invalidFormat
  else if p.eMax < d.e ∨ p.mMax < d.m then some .formatUnsupported
  else none

/-! ## The reset input -/

/-- R210: every piece of the block's state at its reset value; the parameters of the instance and the agents
around the block are no part of it. -/
def resetBlock (s : State) : State :=
  { State.reset with
    params := s.params
    draws := s.draws
    inputs := s.inputs
    source := s.source
    sink := s.sink
    drawn := s.drawn
    sunk := s.sunk
    seen := s.seen }

/-- R211: the collaborator carries out the transaction that is pending as reset is asserted. Its answer, which
arrives after reset, is discarded by the block; the byte is given up or stored all the same. -/
def carryOutPending (s : State) : State :=
  match s.pend with
  | .none => s
  | .src =>
    match s.source with
    | []            => s
    | .fail :: rest => { s with source := rest }
    | .ok b :: rest => { s with source := rest, drawn := s.drawn ++ [b] }
  | .snk b =>
    match s.sink with
    | []            => s
    | .fail :: rest => { s with sink := rest }
    | .ok :: rest   => { s with sink := rest, sunk := s.sunk ++ [b] }

/-- R210, R211: the reset input is asserted. Whether a pending transaction was carried out is the collaborator's
affair, so it comes in as an argument. -/
def applyReset (carriedOut : Bool) (s : State) : State :=
  resetBlock (if carriedOut then carryOutPending s else s)

/-! ## The host's access to the registers -/

/-- R41: the value a host read of register `r` returns; 0 for `CTRL` (R22) and the reserved numbers (R40). -/
def readRegister (s : State) (r : RegNo) : Int :=
  match r.toNat with
  | 0x1 => (statusWord s.status).toNat
  | 0x2 => s.fmtE.toNat
  | 0x3 => s.fmtM.toNat
  | 0x4 => s.fmtBias
  | 0x5 => s.inKind.toNat
  | 0x6 => s.inExp
  | 0x7 => s.inMant
  | 0x8 => s.outKind.toNat
  | 0x9 => s.outExp
  | 0xA => s.outMant
  | 0xB => (rdStateWord s).toNat
  | 0xC => (wrStateWord s).toNat
  | _   => 0

/-- R34, R41: a host write of `IN_MANT`. A bounded register keeps the low bits. An unbounded one keeps the value,
and what it keeps of a negative value is a free value (log entry 5). -/
def writeMantissa (v : Int) (s : State) : State :=
  match s.params.mantW with
  | some w => { s with inMant := keepUnsigned w v }
  | none   =>
      if v < 0 then { s with inMant := Config.freeMantissa s.draws, draws := s.draws + 1 }
      else { s with inMant := v.toNat }

/-- R41, R40: a host write of a register other than `CTRL`. It takes effect at once, whatever `BUSY` is; a write
of a read-only register or of a reserved number is ignored. -/
def writeRegister (r : RegNo) (v : Int) (s : State) : State :=
  match r.toNat with
  | 0x2 => { s with fmtE := BitVec.ofInt 32 v }
  | 0x3 => { s with fmtM := BitVec.ofInt 32 v }
  | 0x4 => { s with fmtBias := keepSigned s.params.biasW v }
  | 0x5 => { s with inKind := keepKind (BitVec.ofInt 8 v) }
  | 0x6 => { s with inExp := keepSigned s.params.expW v }
  | 0x7 => writeMantissa v s
  | _   => s

end Sys2Proof.Machine
end

