-- ==== Sys2Proof/Machine/DecodeCommand.lean ====
section
/-!
DEFINITION. The meaning of `DEC` (R160 to R174). A meaning is ONE step of its command (R222): its acceptance
while `BUSY = 0`, and its next step while it is the command that runs. The checks stand in the step of the
first bit (log entry 2).
-/
namespace Sys2Proof.Machine

/-- R170: a decoded number goes to the result registers. -/
def writeResult (n : Number) (s : State) : State :=
  { s with outKind := outKindOf n, outExp := outExpOf n, outMant := outMantOf n }

/-- R6, R170: whether the instance's result registers hold the number whole. -/
def resultFits (p : Params) (n : Number) : Bool :=
  fitsSigned p.expW (outExpOf n) && fitsUnsigned p.mantW (outMantOf n)

/-- R170, R73: all bits are read; the results and the end of the command are one step. An instance that cannot
hold the result is outside the spec (R170, U8) and is refused by name. -/
def decFinish (s : State) : Out :=
  if resultFits s.params (decodeBits s.buf s.lat.descriptor) then
    .next (complete (writeResult (decodeBits s.buf s.lat.descriptor) s))
  else .refused .resultWiderThanInstance

/-- R162, R46: a bit has been read; it goes to the end of `BUF`, `K` advances, and the command ends at `K = N`. -/
def decAdvance (b : Bool) (s : State) : Out :=
  if s.k + 1 < s.lat.descriptor.n then .next { s with buf := s.buf ++ [b], k := s.k + 1 }
  else decFinish { s with buf := s.buf ++ [b], k := s.k + 1 }

/-- R162: one bit step of `DEC`. -/
def decRead (s : State) : Out := readBit decAdvance s

/-- R160, R161: the first step after acceptance. The checks, then the reader, `BUF` and `K` are set up, then the
first bit is asked for. -/
def decOpen (s : State) : Out :=
  match checkFormat s.params s.lat.descriptor with
  | some e => .next (raise e s)
  | none   => decRead { readerInit s with buf := [], k := 0, opened := true }

/-- `DEC` (R160). -/
def execDec (s : State) : Out :=
  if s.status.busy then
    (if s.phase = .dec then (if s.opened then decRead s else decOpen s) else .next s)
  else .next (accept .dec false s)

end Sys2Proof.Machine
end

