-- ==== Sys2Proof/Machine/Encode.lean ====
section
/-!
DEFINITION. The meaning of `ENC` (R130 to R145). A meaning is ONE step of its command (R222): its acceptance
while `BUSY = 0`, and its next step while it is the command that runs. The checks stand in the step of the
first bit (log entry 2).
-/
namespace Sys2Proof.Machine

/-- R130, R131, R133, R140, R188: the checks of `ENC` in order, then `EncodeBits`. -/
def encPrepare (p : Params) (l : Latched) : Except ErrorKind (List Bool) :=
  match checkFormat p l.descriptor with
  | some e => .error e
  | none =>
    if l.tag = 3 ∧ l.mant = 0 then .error .invalidOperand
    else
      match encodeBits l.number l.descriptor with
      | none      => .error .exponentOverflow
      | some bits => .ok bits

/-- R143, R144, R46: a bit has been written; `K` advances, and the command completes at `K = N`. -/
def encAdvance (s : State) : Out :=
  if s.k + 1 < s.lat.descriptor.n then .next { s with k := s.k + 1 }
  else .next (complete { s with k := s.k + 1 })

/-- R143: one bit step of `ENC`, the write of `BUF[K]`. -/
def encWrite (s : State) : Out := writeBit (s.buf.getD s.k false) encAdvance s

/-- R130: the first step after acceptance. The checks, then `BUF`, `K` and the writer are set up, then `BUF[0]`
is written. -/
def encOpen (s : State) : Out :=
  match encPrepare s.params s.lat with
  | .error e => .next (raise e s)
  | .ok bits => encWrite (writerInit { s with buf := bits, k := 0, opened := true })

/-- `ENC` (R130). -/
def execEnc (s : State) : Out :=
  if s.status.busy then
    (if s.phase = .enc then (if s.opened then encWrite s else encOpen s) else .next s)
  else .next (accept .enc false s)

end Sys2Proof.Machine
end

