-- ==== Sys2Proof/Machine/Stream.lean ====
section
/-!
DEFINITION. The meanings of the three stream commands, `RDB` (R117), `WRB` (R118) and `SINIT` (R119). A meaning
is ONE step of its command (R222): its acceptance while `BUSY = 0`, and its next step while it is the command
that runs. While another command runs, nothing happens (R214).
-/
namespace Sys2Proof.Machine

/-- R117: the bit goes to `RBIT` and the command completes. -/
def rdbDeliver (b : Bool) (s : State) : Out :=
  .next (complete { s with status := { s.status with rbit := b } })

/-- R117: the steps of a running `RDB`. A set `RFAIL` raises `IOFailure` with no transaction (R28, R184); it is
looked at when the command starts, that is while no answer is awaited. -/
def rdbRun (s : State) : Out :=
  if s.pend = .none ∧ s.status.rfail then .next (raise .ioFailure s) else readBit rdbDeliver s

/-- `RDB` (R117). -/
def execRdb (s : State) : Out :=
  if s.status.busy then (if s.phase = .rdb then rdbRun s else .next s)
  else .next (accept .rdb false s)

/-- R118: the steps of a running `WRB`. A set `WFAIL` raises `IOFailure` with no transaction (R28, R184); it is
looked at when the command starts, that is while no answer is awaited. -/
def wrbRun (s : State) : Out :=
  if s.pend = .none ∧ s.status.wfail then .next (raise .ioFailure s)
  else writeBit s.lat.wbit (fun t => .next (complete t)) s

/-- `WRB w` (R118). The running command writes the latched bit `LWBIT`, not `w`. -/
def execWrb (w : Bool) (s : State) : Out :=
  if s.status.busy then (if s.phase = .wrb then wrbRun s else .next s)
  else .next (accept .wrb w s)

/-- `SINIT` (R119). It completes in the acceptance step, so it is never the command that runs. -/
def execSinit (s : State) : Out :=
  if s.status.busy then .next s
  else .next (complete (writerInit (readerInit (accept .idle false s))))

end Sys2Proof.Machine
end

