-- ==== Sys2Proof/Machine/Dispatch.lean ====
section
/-!
DEFINITION. One arm per command: `exec i s` is one step of command `i` (R90, R222).
-/
namespace Sys2Proof.Machine

def exec (i : Instr) (s : State) : Host.Outcome State Fault Refusal :=
  match i with
  | .enc => Sys2Proof.Machine.execEnc s
  | .dec => Sys2Proof.Machine.execDec s
  | .rdb => Sys2Proof.Machine.execRdb s
  | .wrb w => Sys2Proof.Machine.execWrb w s
  | .sinit => Sys2Proof.Machine.execSinit s

end Sys2Proof.Machine
end

