-- ==== Sys2Proof/Machine/HostPort.lean ====
section
/-!
DEFINITION. What one move of the world outside does (R13, R21, R73), and the block's own move.
-/
namespace Sys2Proof.Machine

/-- R22, R90, R91, R187, R214: a host write of `CTRL`. It is ignored while `BUSY = 1`; otherwise the low eight
bits are decoded, and the command is accepted or `IllegalCommand` is raised. -/
def writeCtrl (v : Int) (s : State) : Out :=
  if s.status.busy then .next s
  else
    match decode (BitVec.ofInt 8 v) with
    | .ok i    => exec i s
    | .error _ => .next (illegalCommand s)

/-- R21, R41: `HostWrite(r, v)`. -/
def hostWrite (r : RegNo) (v : Int) (s : State) : Out :=
  if r = Reg.ctrl.number then writeCtrl v s else .next (writeRegister r v s)

/-- R21, R41, R70: `HostRead(r)`. It changes no state of the block; the host keeps what it has read. -/
def hostRead (r : RegNo) (s : State) : State := { s with seen := s.seen ++ [(r, readRegister s r)] }

/-- The block's own move: the next step of the command that runs (R44, R222). An idle block takes no step (R180). -/
def blockStep (s : State) : Out :=
  if s.status.busy then
    match s.phase with
    | .idle => .next s
    | .enc  => exec .enc s
    | .dec  => exec .dec s
    | .rdb  => exec .rdb s
    | .wrb  => exec (.wrb s.lat.wbit) s
  else .next s

/-- One move, with `rest` the moves after it. `WAIT` stays at the head, the block moving, until `BUSY = 0` (R95). -/
def takeInput (i : Input) (rest : List Input) (s : State) : Out :=
  match i with
  | .reset carriedOut => .next (applyReset carriedOut { s with inputs := rest })
  | .write r v        => hostWrite r v { s with inputs := rest }
  | .read r           => .next (hostRead r { s with inputs := rest })
  | .wait             => if s.status.busy then blockStep s else .next { s with inputs := rest }
  | .block            => blockStep { s with inputs := rest }

/-- R95, R96: the moves of one line of a host program. -/
def asmMoves : AsmLine → List Input
  | .cmd i    => [.write Reg.ctrl.number (encode i).toNat]
  | .set r v  => [.write r.number v]
  | .get r    => [.read r.number]
  | .wait     => [.wait]
  | .ldfmt e m bias =>
      [.write Reg.fmtE.number e, .write Reg.fmtM.number m, .write Reg.fmtBias.number bias]
  | .ldfmtStd f =>
      [.write Reg.fmtE.number (Config.standard f).e, .write Reg.fmtM.number (Config.standard f).m,
       .write Reg.fmtBias.number (Config.standard f).bias]
  | .ldnumSingleton n =>
      [.write Reg.inKind.number
        (match n with
         | .posZero => 0x00
         | .negZero => 0x04
         | .posInf  => 0x01
         | .negInf  => 0x05
         | .nan     => 0x02)]
  | .ldnum s e m =>
      [.write Reg.inKind.number (if s then 0x07 else 0x03), .write Reg.inExp.number e,
       .write Reg.inMant.number m]
  | .encw => [.write Reg.ctrl.number (encode .enc).toNat, .wait]
  | .decw => [.write Reg.ctrl.number (encode .dec).toNat, .wait]

/-- A whole host program as moves (R95). -/
def programMoves (lines : List AsmLine) : List Input := lines.flatMap asmMoves

end Sys2Proof.Machine
end

