-- ==== Sys2Proof/Machine/Step.lean ====
section
/-!
DEFINITION. One step of the whole machine: the next move of the world outside, or, when none is left, the
block's own move (R73, R222; log entry 3).
-/
namespace Sys2Proof.Machine

/-- One step. -/
def step (s : State) : Host.Outcome State Fault Refusal :=
  match s.inputs with
  | []        => blockStep s
  | i :: rest => takeInput i rest s

/-- `s` with a command word placed where `step` takes its next command from: the host's next move is a write of
it to `CTRL` (R89). A command is one byte, and the bits above `nbits` are 0. -/
def State.withFetchWord (s : State) (nbits w : Nat) : State :=
  { s with inputs := .write Reg.ctrl.number ((w % 2 ^ nbits : Nat) : Int) :: s.inputs }

end Sys2Proof.Machine
end

