-- ==== Sys2Proof/Safety.lean ====
section
/-!
DEFINITION. The terms that claims about the machine use: the byte form of a bit sequence (R64), the value of a
number (R11), the invariants of the state, and what two outcomes share when they differ in operands only.
-/
namespace Sys2Proof.Machine

/-! ## Bits and bytes (R63, R64) -/

/-- The byte whose bits, MSB-first, are the first eight of a sequence; missing bits count as 0. -/
def byteOfBits (bs : List Bool) : Byte := BitVec.ofNat 8 (ofBits ((bs ++ copies false 8).take 8))

/-- The first `count` bytes of a bit sequence, each packed MSB-first (R64). -/
def packBytes (count : Nat) (bits : List Bool) : List Byte :=
  (List.range count).map (fun j => byteOfBits (bits.drop (8 * j)))

/-- The bits of bytes, each MSB-first (R63, R64). -/
def bitsOfBytes (bytes : List Byte) : List Bool := bytes.flatMap (fun b => bitsE b.toNat 8)

/-! ## Values (R11) -/

/-- The magnitude `m * 2^e` of a finite number or a zero; infinities and NaN have none (R11). -/
def magnitude : Number → Option ℚ
  | .zero _       => some 0
  | .finite _ e m => some ((m : ℚ) * 2 ^ e)
  | .infinity _   => none
  | .nan          => none

/-! ## Invariants -/

/-- R42, R43: `RMASK` is 0x00 or one bit; `WMASK` is one bit; the bits of `WACC` at and below it are 0. -/
structure AdapterInv (s : State) : Prop where
  rmask_legal : s.rmask = 0x00 ∨ ∃ j < 8, s.rmask = BitVec.twoPow 8 j
  wmask_legal : ∃ j < 8, s.wmask = BitVec.twoPow 8 j ∧ ∀ i ≤ j, s.wacc.getLsbD i = false

/-- R24 to R26, R44, R49, R69: the sequencer's fields agree with each other. -/
structure ControlInv (s : State) : Prop where
  /-- R44: `PHASE = IDLE` exactly when `STATUS.BUSY = 0`. -/
  idle_iff_not_busy : s.phase = .idle ↔ s.status.busy = false
  /-- R25, R26: while a command runs, `DONE` and `ERR` are 0. -/
  busy_clears : s.status.busy = true → s.status.done = false ∧ s.status.err = 0
  /-- R26: the value 7 is never written to `ERR`. -/
  err_ne_seven : s.status.err ≠ 7
  /-- Only `ENC` and `DEC` have a set-up step. -/
  opened_phase : s.opened = true → s.phase = .enc ∨ s.phase = .dec
  /-- R61, R69: a source request is pending only in `DEC` and `RDB`, and only while `RMASK = 0x00`. -/
  pend_src : s.pend = .src →
    ((s.phase = .dec ∧ s.opened = true) ∨ s.phase = .rdb) ∧ s.rmask = 0x00
  /-- R62, R69, R113: a sink request is pending only in `ENC` and `WRB`, the accumulator already reset. -/
  pend_snk : ∀ b, s.pend = .snk b →
    ((s.phase = .enc ∧ s.opened = true) ∨ s.phase = .wrb) ∧ s.wacc = 0x00 ∧ s.wmask = 0x80

/-- R32, R35 to R37: the reserved bits of the kind registers are 0, and the result registers hold a result. -/
structure ResultInv (s : State) : Prop where
  in_reserved : s.inKind &&& 0xF8 = 0
  out_reserved : s.outKind &&& 0xF8 = 0
  finite_odd : kindTag s.outKind = 3 → s.outMant % 2 = 1
  other_zero : kindTag s.outKind ≠ 3 → s.outExp = 0 ∧ s.outMant = 0
  nan_unsigned : kindTag s.outKind = 2 → kindSign s.outKind = false

/-- R6, R41: every register, and every latched copy, holds a value of its own width. -/
structure WidthInv (s : State) : Prop where
  fmtBias : fitsSigned s.params.biasW s.fmtBias = true
  inExp   : fitsSigned s.params.expW s.inExp = true
  inMant  : fitsUnsigned s.params.mantW s.inMant = true
  outExp  : fitsSigned s.params.expW s.outExp = true
  outMant : fitsUnsigned s.params.mantW s.outMant = true
  latBias : fitsSigned s.params.biasW s.lat.bias = true
  latExp  : fitsSigned s.params.expW s.lat.exp = true
  latMant : fitsUnsigned s.params.mantW s.lat.mant = true

/-- R46, R143: a running `ENC` that is set up. `BUF` is the encoding of the latched operands, `K < N` bits of it
are written, the whole bytes among them are the last bytes the sink has taken, and the rest stand in `WACC`. -/
structure EncodingInv (s : State) : Prop where
  prepared : encPrepare s.params s.lat = .ok s.buf
  length   : s.buf.length = s.lat.descriptor.n
  progress : s.k < s.lat.descriptor.n
  sent     : ∃ before, s.sunk = before ++ packBytes (s.k / 8) s.buf
  partBit  : s.pend = .none → s.wmask = (0x80 : Byte) >>> (s.k % 8) ∧
    s.wacc = byteOfBits ((s.buf.take s.k).drop (8 * (s.k / 8)))
  wholeByte : ∀ b, s.pend = .snk b → s.k % 8 = 7 ∧ b = byteOfBits (s.buf.drop (8 * (s.k / 8)))

/-- R46, R162: a running `DEC` that is set up. `BUF` holds the `K < N` bits read, they are the bits of the last
bytes the source has given up, and `RMASK` points at the next bit of the last one. -/
structure DecodingInv (s : State) : Prop where
  checked  : checkFormat s.params s.lat.descriptor = none
  length   : s.buf.length = s.k
  progress : s.k < s.lat.descriptor.n
  fetched  : ∃ before bytes, s.drawn = before ++ bytes ∧ bytes.length = (s.k + 7) / 8 ∧
    s.buf = (bitsOfBytes bytes).take s.k ∧ (s.k % 8 ≠ 0 → bytes.getLast? = some s.rcur)
  mask     : s.rmask = if s.k % 8 = 0 then 0x00 else (0x80 : Byte) >>> (s.k % 8)
  boundary : s.pend = .src → s.k % 8 = 0

/-- The invariant of the whole machine: it rules out the states that no run reaches. -/
structure Inv (s : State) : Prop where
  adapter  : AdapterInv s
  control  : ControlInv s
  result   : ResultInv s
  width    : WidthInv s
  encoding : s.phase = .enc → s.opened = true → EncodingInv s
  decoding : s.phase = .dec → s.opened = true → DecodingInv s

/-! ## What a running command may depend on (R45) -/

/-- The operand registers, as a host may write them while a command runs (R216). -/
structure OperandRegs where
  fmtE    : BitVec 32
  fmtM    : BitVec 32
  fmtBias : Int
  inKind  : Byte
  inExp   : Int
  inMant  : Nat
  deriving DecidableEq, Repr

/-- The state with other values in its operand registers and nothing else changed. -/
def State.withOperands (s : State) (o : OperandRegs) : State :=
  { s with
    fmtE := o.fmtE, fmtM := o.fmtM, fmtBias := o.fmtBias
    inKind := o.inKind, inExp := o.inExp, inMant := o.inMant }

/-- The outcome with a change made to its next state, if it has one. -/
def mapNext (f : State → State) : Out → Out
  | .next t    => .next (f t)
  | .fault r   => .fault r
  | .refused r => .refused r

/-- `n` steps of the machine, stopping at the first fault or refusal. -/
def runSteps : Nat → State → Out
  | 0,     s => .next s
  | n + 1, s =>
    match step s with
    | .next t    => runSteps n t
    | .fault r   => .fault r
    | .refused r => .refused r

/-- The command that a busy block runs (R44); none in the idle phase. -/
def runningCommand (s : State) : Option Instr :=
  match s.phase with
  | .idle => none
  | .enc  => some .enc
  | .dec  => some .dec
  | .rdb  => some .rdb
  | .wrb  => some (.wrb s.lat.wbit)

/-- The next input is the reset input. -/
abbrev ResetNext (s : State) : Prop := ∃ c rest, s.inputs = .reset c :: rest

/-- The next input is a write of `CTRL` that the decoder reads as command `i`. -/
abbrev CommandNext (s : State) (i : Instr) : Prop :=
  ∃ v rest, s.inputs = .write 0x0 v :: rest ∧ decode (BitVec.ofInt 8 v) = .ok i

/-- A request is pending and the collaborator behind its port never answers (R200). -/
abbrev Unanswered (s : State) : Prop :=
  (s.pend = .src ∧ s.source = []) ∨ (∃ b, s.pend = .snk b ∧ s.sink = [])

end Sys2Proof.Machine
end

