-- ==== Sys2Proof/Laws/Bits.lean ====
section
/-!
SUPPORT. The small lemmas of the integer helpers and bit sequences (R8, R10, R81) and of the lengths of what the
encoder emits.
-/
namespace Sys2Proof.Machine

/-! ## Lengths and single elements -/

@[simp] theorem copies_length (x : Bool) (n : Nat) : (copies x n).length = n := by simp [copies]

@[simp] theorem bitsE_length (v n : Nat) : (bitsE v n).length = n := by
  induction n with
  | zero => rfl
  | succ n ih => simp [bitsE, ih]

/-- Element `i` of an `n`-bit field written high-to-low is bit `n - 1 - i` of its value (R8). -/
theorem bitsE_get (v : Nat) : ∀ {n i : Nat}, i < n → (bitsE v n)[i]? = some (v.testBit (n - 1 - i)) := by
  intro n
  induction n with
  | zero => intro i h; omega
  | succ n ih =>
    intro i h
    cases i with
    | zero => simp [bitsE]
    | succ i =>
      have hi : i < n := by omega
      have e : n + 1 - 1 - (i + 1) = n - 1 - i := by omega
      rw [e, ← ih hi]
      rfl

@[simp] theorem mantissaBits_length (m : Nat) (start : Int) (n : Nat) :
    (mantissaBits m start n).length = n := by
  induction n generalizing start with
  | zero => rfl
  | succ n ih => simp [mantissaBits, ih]

/-- Element `j` of the mantissa bits is bit `start - j` of the significand (R141). -/
theorem mantissaBits_get (m : Nat) : ∀ {n j : Nat} (start : Int), j < n →
    (mantissaBits m start n)[j]? = some (testBitAt m (start - j)) := by
  intro n
  induction n with
  | zero => intro j _ h; omega
  | succ n ih =>
    intro j start h
    cases j with
    | zero => simp [mantissaBits]
    | succ j =>
      have hj : j < n := by omega
      have e : start - ((j : Int) + 1) = start - 1 - (j : Int) := by omega
      simpa [mantissaBits, e] using ih (start - 1) hj

@[simp] theorem assemble_length (s : Bool) (x y : List Bool) :
    (assemble s x y).length = 1 + x.length + y.length := by
  simp [assemble]; omega

@[simp] theorem nanMantissa_length (M : Nat) : (nanMantissa M).length = M := by
  cases M <;> simp [nanMantissa]

/-- Every encoding has `N` bits (R80, R132). -/
theorem encodeBits_length {n : Number} {d : Descriptor} {B : List Bool} (h : encodeBits n d = some B) :
    B.length = d.n := by
  cases n with
  | zero s => simp only [encodeBits, Option.some.injEq] at h; simp [← h, Descriptor.n]
  | infinity s => simp only [encodeBits, Option.some.injEq] at h; simp [← h, Descriptor.n]
  | nan => simp only [encodeBits, Option.some.injEq] at h; simp [← h, Descriptor.n]
  | finite s e m =>
    simp only [encodeBits, encodeFinite] at h
    split at h
    · split at h <;> simp only [Option.some.injEq] at h <;> simp [← h, Descriptor.n]
    · split at h
      · simp at h
      · simp only [Option.some.injEq] at h; simp [← h, Descriptor.n]

/-! ## The integer of a bit sequence (R81) -/

/-- The fold behind `ofBits`, from any starting value. -/
theorem foldl_bits (bs : List Bool) (a : Nat) :
    bs.foldl (fun acc b => 2 * acc + b.toNat) a = a * 2 ^ bs.length + ofBits bs := by
  induction bs generalizing a with
  | nil => simp [ofBits]
  | cons b bs ih =>
    simp only [ofBits, List.foldl_cons, List.length_cons]
    rw [ih, ih]
    ring

@[simp] theorem ofBits_nil : ofBits [] = 0 := rfl

theorem ofBits_cons (b : Bool) (bs : List Bool) :
    ofBits (b :: bs) = b.toNat * 2 ^ bs.length + ofBits bs := by
  simpa [ofBits] using foldl_bits bs b.toNat

theorem ofBits_append (xs ys : List Bool) :
    ofBits (xs ++ ys) = ofBits xs * 2 ^ ys.length + ofBits ys := by
  simp only [ofBits, List.foldl_append]
  rw [foldl_bits]
  rfl

theorem ofBits_lt (bs : List Bool) : ofBits bs < 2 ^ bs.length := by
  induction bs with
  | nil => simp
  | cons b bs ih =>
    rw [ofBits_cons, List.length_cons, pow_succ]
    cases b <;> simp <;> omega

/-- Writing the low `n` bits of `v` and reading them back gives `v mod 2^n`. -/
theorem ofBits_bitsE (v n : Nat) : ofBits (bitsE v n) = v % 2 ^ n := by
  induction n with
  | zero => simp [bitsE, Nat.mod_one]
  | succ n ih =>
    rw [bitsE, ofBits_cons, ih, bitsE_length, pow_succ, Nat.mod_mul, Nat.toNat_testBit]
    ring

/-- Reading a bit sequence as an integer and writing it back gives the sequence. -/
theorem bitsE_ofBits (bs : List Bool) : bitsE (ofBits bs) bs.length = bs := by
  induction bs with
  | nil => rfl
  | cons b bs ih =>
    have hlt := ofBits_lt bs
    have top : (ofBits (b :: bs)).testBit bs.length = b := by
      rw [ofBits_cons]
      cases b <;> simp [Nat.testBit_lt_two_pow hlt, Nat.testBit_two_pow_add_eq]
    have low : ∀ n ≤ bs.length, bitsE (ofBits (b :: bs)) n = bitsE (ofBits bs) n := by
      intro n hn
      induction n with
      | zero => rfl
      | succ n ihn =>
        rw [bitsE, bitsE, ihn (by omega)]
        congr 1
        rw [ofBits_cons]
        cases b
        · simp
        · have : n < bs.length := by omega
          simpa using Nat.testBit_two_pow_add_gt this (ofBits bs)
    rw [List.length_cons, bitsE, top, low _ le_rfl, ih]

@[simp] theorem ofBits_copies_false (n : Nat) : ofBits (copies false n) = 0 := by
  induction n with
  | zero => rfl
  | succ n ih => simpa [copies, List.replicate_succ, ofBits_cons] using ih

theorem ofBits_copies_true (n : Nat) : ofBits (copies true n) = allOnes n := by
  induction n with
  | zero => rfl
  | succ n ih =>
    have h := Nat.one_le_two_pow (n := n)
    simp only [copies, List.replicate_succ, ofBits_cons, List.length_replicate, Bool.toNat_true, one_mul] at ih ⊢
    rw [ih, allOnes, allOnes, pow_succ]
    omega

/-! ## The helpers of R10 -/

theorem lt_two_pow_bitLength (n : Nat) : n < 2 ^ bitLength n := by
  unfold bitLength
  split
  · subst_vars; simp
  · exact Nat.lt_log2_self

theorem two_pow_le_of_pos {n : Nat} (h : n ≠ 0) : 2 ^ (bitLength n - 1) ≤ n := by
  simp only [bitLength, h, if_false, Nat.add_sub_cancel]
  exact Nat.log2_self_le h

@[simp] theorem testBitAt_ofNat (n i : Nat) : testBitAt n (i : Int) = n.testBit i := by
  simp [testBitAt]

theorem testBitAt_neg {n : Nat} {i : Int} (h : i < 0) : testBitAt n i = false := by
  simp [testBitAt, h]

theorem ctzUpTo_spec : ∀ (fuel n : Nat), 0 < n → n < 2 ^ fuel →
    n % 2 ^ ctzUpTo fuel n = 0 ∧ n / 2 ^ ctzUpTo fuel n % 2 = 1 := by
  intro fuel
  induction fuel with
  | zero => intro n h1 h2; simp at h2; omega
  | succ fuel ih =>
    intro n h1 h2
    unfold ctzUpTo
    split
    · rename_i odd
      simp [Nat.mod_one, odd]
    · rename_i even
      have h3 : 0 < n / 2 := by omega
      have h4 : n / 2 < 2 ^ fuel := by rw [pow_succ] at h2; omega
      obtain ⟨a, b⟩ := ih (n / 2) h3 h4
      have e : n = 2 * (n / 2) := by omega
      rw [add_comm, pow_succ, mul_comm, ← Nat.div_div_eq_div_mul]
      refine ⟨?_, b⟩
      rw [e, Nat.mul_mod_mul_left, ← e, a]

/-- R10: `2^(ctz n)` divides a positive `n`, and the quotient is odd. -/
theorem ctz_spec {n : Nat} (h : 0 < n) : n % 2 ^ ctz n = 0 ∧ n / 2 ^ ctz n % 2 = 1 :=
  ctzUpTo_spec _ _ h (lt_two_pow_bitLength n)

end Sys2Proof.Machine
end

