-- ==== Sys2Proof/Laws/State.lean ====
section
/-!
SUPPORT. One lemma per field per named update of the state: what each update writes and what it leaves. Each is
true by the update's definition, so that later proofs never unfold a record update.
-/
namespace Sys2Proof.Machine

/-! ## R90, R45: what acceptance writes, and what it leaves -/

@[simp] theorem accept_params (ph : Phase) (w : Bool) (s : State) : (accept ph w s).params = s.params := rfl
@[simp] theorem accept_status (ph : Phase) (w : Bool) (s : State) : (accept ph w s).status = { s.status with busy := true, done := false, err := 0 } := rfl
@[simp] theorem accept_fmtE (ph : Phase) (w : Bool) (s : State) : (accept ph w s).fmtE = s.fmtE := rfl
@[simp] theorem accept_fmtM (ph : Phase) (w : Bool) (s : State) : (accept ph w s).fmtM = s.fmtM := rfl
@[simp] theorem accept_fmtBias (ph : Phase) (w : Bool) (s : State) : (accept ph w s).fmtBias = s.fmtBias := rfl
@[simp] theorem accept_inKind (ph : Phase) (w : Bool) (s : State) : (accept ph w s).inKind = s.inKind := rfl
@[simp] theorem accept_inExp (ph : Phase) (w : Bool) (s : State) : (accept ph w s).inExp = s.inExp := rfl
@[simp] theorem accept_inMant (ph : Phase) (w : Bool) (s : State) : (accept ph w s).inMant = s.inMant := rfl
@[simp] theorem accept_outKind (ph : Phase) (w : Bool) (s : State) : (accept ph w s).outKind = s.outKind := rfl
@[simp] theorem accept_outExp (ph : Phase) (w : Bool) (s : State) : (accept ph w s).outExp = s.outExp := rfl
@[simp] theorem accept_outMant (ph : Phase) (w : Bool) (s : State) : (accept ph w s).outMant = s.outMant := rfl
@[simp] theorem accept_rcur (ph : Phase) (w : Bool) (s : State) : (accept ph w s).rcur = s.rcur := rfl
@[simp] theorem accept_rmask (ph : Phase) (w : Bool) (s : State) : (accept ph w s).rmask = s.rmask := rfl
@[simp] theorem accept_wacc (ph : Phase) (w : Bool) (s : State) : (accept ph w s).wacc = s.wacc := rfl
@[simp] theorem accept_wmask (ph : Phase) (w : Bool) (s : State) : (accept ph w s).wmask = s.wmask := rfl
@[simp] theorem accept_phase (ph : Phase) (w : Bool) (s : State) : (accept ph w s).phase = ph := rfl
@[simp] theorem accept_lat (ph : Phase) (w : Bool) (s : State) : (accept ph w s).lat = latchOperands w s := rfl
@[simp] theorem accept_k (ph : Phase) (w : Bool) (s : State) : (accept ph w s).k = s.k := rfl
@[simp] theorem accept_buf (ph : Phase) (w : Bool) (s : State) : (accept ph w s).buf = s.buf := rfl
@[simp] theorem accept_pend (ph : Phase) (w : Bool) (s : State) : (accept ph w s).pend = s.pend := rfl
@[simp] theorem accept_opened (ph : Phase) (w : Bool) (s : State) : (accept ph w s).opened = false := rfl
@[simp] theorem accept_draws (ph : Phase) (w : Bool) (s : State) : (accept ph w s).draws = s.draws := rfl
@[simp] theorem accept_inputs (ph : Phase) (w : Bool) (s : State) : (accept ph w s).inputs = s.inputs := rfl
@[simp] theorem accept_source (ph : Phase) (w : Bool) (s : State) : (accept ph w s).source = s.source := rfl
@[simp] theorem accept_sink (ph : Phase) (w : Bool) (s : State) : (accept ph w s).sink = s.sink := rfl
@[simp] theorem accept_drawn (ph : Phase) (w : Bool) (s : State) : (accept ph w s).drawn = s.drawn := rfl
@[simp] theorem accept_sunk (ph : Phase) (w : Bool) (s : State) : (accept ph w s).sunk = s.sunk := rfl
@[simp] theorem accept_seen (ph : Phase) (w : Bool) (s : State) : (accept ph w s).seen = s.seen := rfl

/-! ## R180: what the end of a command writes, and what it leaves -/

@[simp] theorem endCommand_params (c : BitVec 3) (s : State) : (endCommand c s).params = s.params := rfl
@[simp] theorem endCommand_status (c : BitVec 3) (s : State) : (endCommand c s).status = { s.status with busy := false, done := true, err := c } := rfl
@[simp] theorem endCommand_fmtE (c : BitVec 3) (s : State) : (endCommand c s).fmtE = s.fmtE := rfl
@[simp] theorem endCommand_fmtM (c : BitVec 3) (s : State) : (endCommand c s).fmtM = s.fmtM := rfl
@[simp] theorem endCommand_fmtBias (c : BitVec 3) (s : State) : (endCommand c s).fmtBias = s.fmtBias := rfl
@[simp] theorem endCommand_inKind (c : BitVec 3) (s : State) : (endCommand c s).inKind = s.inKind := rfl
@[simp] theorem endCommand_inExp (c : BitVec 3) (s : State) : (endCommand c s).inExp = s.inExp := rfl
@[simp] theorem endCommand_inMant (c : BitVec 3) (s : State) : (endCommand c s).inMant = s.inMant := rfl
@[simp] theorem endCommand_outKind (c : BitVec 3) (s : State) : (endCommand c s).outKind = s.outKind := rfl
@[simp] theorem endCommand_outExp (c : BitVec 3) (s : State) : (endCommand c s).outExp = s.outExp := rfl
@[simp] theorem endCommand_outMant (c : BitVec 3) (s : State) : (endCommand c s).outMant = s.outMant := rfl
@[simp] theorem endCommand_rcur (c : BitVec 3) (s : State) : (endCommand c s).rcur = s.rcur := rfl
@[simp] theorem endCommand_rmask (c : BitVec 3) (s : State) : (endCommand c s).rmask = s.rmask := rfl
@[simp] theorem endCommand_wacc (c : BitVec 3) (s : State) : (endCommand c s).wacc = s.wacc := rfl
@[simp] theorem endCommand_wmask (c : BitVec 3) (s : State) : (endCommand c s).wmask = s.wmask := rfl
@[simp] theorem endCommand_phase (c : BitVec 3) (s : State) : (endCommand c s).phase = .idle := rfl
@[simp] theorem endCommand_lat (c : BitVec 3) (s : State) : (endCommand c s).lat = s.lat := rfl
@[simp] theorem endCommand_k (c : BitVec 3) (s : State) : (endCommand c s).k = s.k := rfl
@[simp] theorem endCommand_buf (c : BitVec 3) (s : State) : (endCommand c s).buf = s.buf := rfl
@[simp] theorem endCommand_pend (c : BitVec 3) (s : State) : (endCommand c s).pend = s.pend := rfl
@[simp] theorem endCommand_opened (c : BitVec 3) (s : State) : (endCommand c s).opened = false := rfl
@[simp] theorem endCommand_draws (c : BitVec 3) (s : State) : (endCommand c s).draws = s.draws := rfl
@[simp] theorem endCommand_inputs (c : BitVec 3) (s : State) : (endCommand c s).inputs = s.inputs := rfl
@[simp] theorem endCommand_source (c : BitVec 3) (s : State) : (endCommand c s).source = s.source := rfl
@[simp] theorem endCommand_sink (c : BitVec 3) (s : State) : (endCommand c s).sink = s.sink := rfl
@[simp] theorem endCommand_drawn (c : BitVec 3) (s : State) : (endCommand c s).drawn = s.drawn := rfl
@[simp] theorem endCommand_sunk (c : BitVec 3) (s : State) : (endCommand c s).sunk = s.sunk := rfl
@[simp] theorem endCommand_seen (c : BitVec 3) (s : State) : (endCommand c s).seen = s.seen := rfl

/-! ## R180 `complete` -/

@[simp] theorem complete_params (s : State) : (complete s).params = s.params := rfl
@[simp] theorem complete_status (s : State) : (complete s).status = { s.status with busy := false, done := true, err := 0 } := rfl
@[simp] theorem complete_fmtE (s : State) : (complete s).fmtE = s.fmtE := rfl
@[simp] theorem complete_fmtM (s : State) : (complete s).fmtM = s.fmtM := rfl
@[simp] theorem complete_fmtBias (s : State) : (complete s).fmtBias = s.fmtBias := rfl
@[simp] theorem complete_inKind (s : State) : (complete s).inKind = s.inKind := rfl
@[simp] theorem complete_inExp (s : State) : (complete s).inExp = s.inExp := rfl
@[simp] theorem complete_inMant (s : State) : (complete s).inMant = s.inMant := rfl
@[simp] theorem complete_outKind (s : State) : (complete s).outKind = s.outKind := rfl
@[simp] theorem complete_outExp (s : State) : (complete s).outExp = s.outExp := rfl
@[simp] theorem complete_outMant (s : State) : (complete s).outMant = s.outMant := rfl
@[simp] theorem complete_rcur (s : State) : (complete s).rcur = s.rcur := rfl
@[simp] theorem complete_rmask (s : State) : (complete s).rmask = s.rmask := rfl
@[simp] theorem complete_wacc (s : State) : (complete s).wacc = s.wacc := rfl
@[simp] theorem complete_wmask (s : State) : (complete s).wmask = s.wmask := rfl
@[simp] theorem complete_phase (s : State) : (complete s).phase = .idle := rfl
@[simp] theorem complete_lat (s : State) : (complete s).lat = s.lat := rfl
@[simp] theorem complete_k (s : State) : (complete s).k = s.k := rfl
@[simp] theorem complete_buf (s : State) : (complete s).buf = s.buf := rfl
@[simp] theorem complete_pend (s : State) : (complete s).pend = s.pend := rfl
@[simp] theorem complete_opened (s : State) : (complete s).opened = false := rfl
@[simp] theorem complete_draws (s : State) : (complete s).draws = s.draws := rfl
@[simp] theorem complete_inputs (s : State) : (complete s).inputs = s.inputs := rfl
@[simp] theorem complete_source (s : State) : (complete s).source = s.source := rfl
@[simp] theorem complete_sink (s : State) : (complete s).sink = s.sink := rfl
@[simp] theorem complete_drawn (s : State) : (complete s).drawn = s.drawn := rfl
@[simp] theorem complete_sunk (s : State) : (complete s).sunk = s.sunk := rfl
@[simp] theorem complete_seen (s : State) : (complete s).seen = s.seen := rfl

/-! ## R180 `raise` -/

@[simp] theorem raise_params (e : ErrorKind) (s : State) : (raise e s).params = s.params := rfl
@[simp] theorem raise_status (e : ErrorKind) (s : State) : (raise e s).status = { s.status with busy := false, done := true, err := errorCode e } := rfl
@[simp] theorem raise_fmtE (e : ErrorKind) (s : State) : (raise e s).fmtE = s.fmtE := rfl
@[simp] theorem raise_fmtM (e : ErrorKind) (s : State) : (raise e s).fmtM = s.fmtM := rfl
@[simp] theorem raise_fmtBias (e : ErrorKind) (s : State) : (raise e s).fmtBias = s.fmtBias := rfl
@[simp] theorem raise_inKind (e : ErrorKind) (s : State) : (raise e s).inKind = s.inKind := rfl
@[simp] theorem raise_inExp (e : ErrorKind) (s : State) : (raise e s).inExp = s.inExp := rfl
@[simp] theorem raise_inMant (e : ErrorKind) (s : State) : (raise e s).inMant = s.inMant := rfl
@[simp] theorem raise_outKind (e : ErrorKind) (s : State) : (raise e s).outKind = s.outKind := rfl
@[simp] theorem raise_outExp (e : ErrorKind) (s : State) : (raise e s).outExp = s.outExp := rfl
@[simp] theorem raise_outMant (e : ErrorKind) (s : State) : (raise e s).outMant = s.outMant := rfl
@[simp] theorem raise_rcur (e : ErrorKind) (s : State) : (raise e s).rcur = s.rcur := rfl
@[simp] theorem raise_rmask (e : ErrorKind) (s : State) : (raise e s).rmask = s.rmask := rfl
@[simp] theorem raise_wacc (e : ErrorKind) (s : State) : (raise e s).wacc = s.wacc := rfl
@[simp] theorem raise_wmask (e : ErrorKind) (s : State) : (raise e s).wmask = s.wmask := rfl
@[simp] theorem raise_phase (e : ErrorKind) (s : State) : (raise e s).phase = .idle := rfl
@[simp] theorem raise_lat (e : ErrorKind) (s : State) : (raise e s).lat = s.lat := rfl
@[simp] theorem raise_k (e : ErrorKind) (s : State) : (raise e s).k = s.k := rfl
@[simp] theorem raise_buf (e : ErrorKind) (s : State) : (raise e s).buf = s.buf := rfl
@[simp] theorem raise_pend (e : ErrorKind) (s : State) : (raise e s).pend = s.pend := rfl
@[simp] theorem raise_opened (e : ErrorKind) (s : State) : (raise e s).opened = false := rfl
@[simp] theorem raise_draws (e : ErrorKind) (s : State) : (raise e s).draws = s.draws := rfl
@[simp] theorem raise_inputs (e : ErrorKind) (s : State) : (raise e s).inputs = s.inputs := rfl
@[simp] theorem raise_source (e : ErrorKind) (s : State) : (raise e s).source = s.source := rfl
@[simp] theorem raise_sink (e : ErrorKind) (s : State) : (raise e s).sink = s.sink := rfl
@[simp] theorem raise_drawn (e : ErrorKind) (s : State) : (raise e s).drawn = s.drawn := rfl
@[simp] theorem raise_sunk (e : ErrorKind) (s : State) : (raise e s).sunk = s.sunk := rfl
@[simp] theorem raise_seen (e : ErrorKind) (s : State) : (raise e s).seen = s.seen := rfl

/-! ## R187 -/

@[simp] theorem illegalCommand_params (s : State) : (illegalCommand s).params = s.params := rfl
@[simp] theorem illegalCommand_status (s : State) : (illegalCommand s).status = { s.status with done := true, err := 6 } := rfl
@[simp] theorem illegalCommand_fmtE (s : State) : (illegalCommand s).fmtE = s.fmtE := rfl
@[simp] theorem illegalCommand_fmtM (s : State) : (illegalCommand s).fmtM = s.fmtM := rfl
@[simp] theorem illegalCommand_fmtBias (s : State) : (illegalCommand s).fmtBias = s.fmtBias := rfl
@[simp] theorem illegalCommand_inKind (s : State) : (illegalCommand s).inKind = s.inKind := rfl
@[simp] theorem illegalCommand_inExp (s : State) : (illegalCommand s).inExp = s.inExp := rfl
@[simp] theorem illegalCommand_inMant (s : State) : (illegalCommand s).inMant = s.inMant := rfl
@[simp] theorem illegalCommand_outKind (s : State) : (illegalCommand s).outKind = s.outKind := rfl
@[simp] theorem illegalCommand_outExp (s : State) : (illegalCommand s).outExp = s.outExp := rfl
@[simp] theorem illegalCommand_outMant (s : State) : (illegalCommand s).outMant = s.outMant := rfl
@[simp] theorem illegalCommand_rcur (s : State) : (illegalCommand s).rcur = s.rcur := rfl
@[simp] theorem illegalCommand_rmask (s : State) : (illegalCommand s).rmask = s.rmask := rfl
@[simp] theorem illegalCommand_wacc (s : State) : (illegalCommand s).wacc = s.wacc := rfl
@[simp] theorem illegalCommand_wmask (s : State) : (illegalCommand s).wmask = s.wmask := rfl
@[simp] theorem illegalCommand_phase (s : State) : (illegalCommand s).phase = s.phase := rfl
@[simp] theorem illegalCommand_lat (s : State) : (illegalCommand s).lat = s.lat := rfl
@[simp] theorem illegalCommand_k (s : State) : (illegalCommand s).k = s.k := rfl
@[simp] theorem illegalCommand_buf (s : State) : (illegalCommand s).buf = s.buf := rfl
@[simp] theorem illegalCommand_pend (s : State) : (illegalCommand s).pend = s.pend := rfl
@[simp] theorem illegalCommand_opened (s : State) : (illegalCommand s).opened = s.opened := rfl
@[simp] theorem illegalCommand_draws (s : State) : (illegalCommand s).draws = s.draws := rfl
@[simp] theorem illegalCommand_inputs (s : State) : (illegalCommand s).inputs = s.inputs := rfl
@[simp] theorem illegalCommand_source (s : State) : (illegalCommand s).source = s.source := rfl
@[simp] theorem illegalCommand_sink (s : State) : (illegalCommand s).sink = s.sink := rfl
@[simp] theorem illegalCommand_drawn (s : State) : (illegalCommand s).drawn = s.drawn := rfl
@[simp] theorem illegalCommand_sunk (s : State) : (illegalCommand s).sunk = s.sunk := rfl
@[simp] theorem illegalCommand_seen (s : State) : (illegalCommand s).seen = s.seen := rfl

/-! ## R115 `ReaderInit` -/

@[simp] theorem readerInit_params (s : State) : (readerInit s).params = s.params := rfl
@[simp] theorem readerInit_status (s : State) : (readerInit s).status = { s.status with rfail := false } := rfl
@[simp] theorem readerInit_fmtE (s : State) : (readerInit s).fmtE = s.fmtE := rfl
@[simp] theorem readerInit_fmtM (s : State) : (readerInit s).fmtM = s.fmtM := rfl
@[simp] theorem readerInit_fmtBias (s : State) : (readerInit s).fmtBias = s.fmtBias := rfl
@[simp] theorem readerInit_inKind (s : State) : (readerInit s).inKind = s.inKind := rfl
@[simp] theorem readerInit_inExp (s : State) : (readerInit s).inExp = s.inExp := rfl
@[simp] theorem readerInit_inMant (s : State) : (readerInit s).inMant = s.inMant := rfl
@[simp] theorem readerInit_outKind (s : State) : (readerInit s).outKind = s.outKind := rfl
@[simp] theorem readerInit_outExp (s : State) : (readerInit s).outExp = s.outExp := rfl
@[simp] theorem readerInit_outMant (s : State) : (readerInit s).outMant = s.outMant := rfl
@[simp] theorem readerInit_rcur (s : State) : (readerInit s).rcur = 0 := rfl
@[simp] theorem readerInit_rmask (s : State) : (readerInit s).rmask = 0 := rfl
@[simp] theorem readerInit_wacc (s : State) : (readerInit s).wacc = s.wacc := rfl
@[simp] theorem readerInit_wmask (s : State) : (readerInit s).wmask = s.wmask := rfl
@[simp] theorem readerInit_phase (s : State) : (readerInit s).phase = s.phase := rfl
@[simp] theorem readerInit_lat (s : State) : (readerInit s).lat = s.lat := rfl
@[simp] theorem readerInit_k (s : State) : (readerInit s).k = s.k := rfl
@[simp] theorem readerInit_buf (s : State) : (readerInit s).buf = s.buf := rfl
@[simp] theorem readerInit_pend (s : State) : (readerInit s).pend = s.pend := rfl
@[simp] theorem readerInit_opened (s : State) : (readerInit s).opened = s.opened := rfl
@[simp] theorem readerInit_draws (s : State) : (readerInit s).draws = s.draws := rfl
@[simp] theorem readerInit_inputs (s : State) : (readerInit s).inputs = s.inputs := rfl
@[simp] theorem readerInit_source (s : State) : (readerInit s).source = s.source := rfl
@[simp] theorem readerInit_sink (s : State) : (readerInit s).sink = s.sink := rfl
@[simp] theorem readerInit_drawn (s : State) : (readerInit s).drawn = s.drawn := rfl
@[simp] theorem readerInit_sunk (s : State) : (readerInit s).sunk = s.sunk := rfl
@[simp] theorem readerInit_seen (s : State) : (readerInit s).seen = s.seen := rfl

/-! ## R115 `WriterInit` -/

@[simp] theorem writerInit_params (s : State) : (writerInit s).params = s.params := rfl
@[simp] theorem writerInit_status (s : State) : (writerInit s).status = { s.status with wfail := false } := rfl
@[simp] theorem writerInit_fmtE (s : State) : (writerInit s).fmtE = s.fmtE := rfl
@[simp] theorem writerInit_fmtM (s : State) : (writerInit s).fmtM = s.fmtM := rfl
@[simp] theorem writerInit_fmtBias (s : State) : (writerInit s).fmtBias = s.fmtBias := rfl
@[simp] theorem writerInit_inKind (s : State) : (writerInit s).inKind = s.inKind := rfl
@[simp] theorem writerInit_inExp (s : State) : (writerInit s).inExp = s.inExp := rfl
@[simp] theorem writerInit_inMant (s : State) : (writerInit s).inMant = s.inMant := rfl
@[simp] theorem writerInit_outKind (s : State) : (writerInit s).outKind = s.outKind := rfl
@[simp] theorem writerInit_outExp (s : State) : (writerInit s).outExp = s.outExp := rfl
@[simp] theorem writerInit_outMant (s : State) : (writerInit s).outMant = s.outMant := rfl
@[simp] theorem writerInit_rcur (s : State) : (writerInit s).rcur = s.rcur := rfl
@[simp] theorem writerInit_rmask (s : State) : (writerInit s).rmask = s.rmask := rfl
@[simp] theorem writerInit_wacc (s : State) : (writerInit s).wacc = 0 := rfl
@[simp] theorem writerInit_wmask (s : State) : (writerInit s).wmask = 0x80 := rfl
@[simp] theorem writerInit_phase (s : State) : (writerInit s).phase = s.phase := rfl
@[simp] theorem writerInit_lat (s : State) : (writerInit s).lat = s.lat := rfl
@[simp] theorem writerInit_k (s : State) : (writerInit s).k = s.k := rfl
@[simp] theorem writerInit_buf (s : State) : (writerInit s).buf = s.buf := rfl
@[simp] theorem writerInit_pend (s : State) : (writerInit s).pend = s.pend := rfl
@[simp] theorem writerInit_opened (s : State) : (writerInit s).opened = s.opened := rfl
@[simp] theorem writerInit_draws (s : State) : (writerInit s).draws = s.draws := rfl
@[simp] theorem writerInit_inputs (s : State) : (writerInit s).inputs = s.inputs := rfl
@[simp] theorem writerInit_source (s : State) : (writerInit s).source = s.source := rfl
@[simp] theorem writerInit_sink (s : State) : (writerInit s).sink = s.sink := rfl
@[simp] theorem writerInit_drawn (s : State) : (writerInit s).drawn = s.drawn := rfl
@[simp] theorem writerInit_sunk (s : State) : (writerInit s).sunk = s.sunk := rfl
@[simp] theorem writerInit_seen (s : State) : (writerInit s).seen = s.seen := rfl

/-! ## R170 -/

@[simp] theorem writeResult_params (n : Number) (s : State) : (writeResult n s).params = s.params := rfl
@[simp] theorem writeResult_status (n : Number) (s : State) : (writeResult n s).status = s.status := rfl
@[simp] theorem writeResult_fmtE (n : Number) (s : State) : (writeResult n s).fmtE = s.fmtE := rfl
@[simp] theorem writeResult_fmtM (n : Number) (s : State) : (writeResult n s).fmtM = s.fmtM := rfl
@[simp] theorem writeResult_fmtBias (n : Number) (s : State) : (writeResult n s).fmtBias = s.fmtBias := rfl
@[simp] theorem writeResult_inKind (n : Number) (s : State) : (writeResult n s).inKind = s.inKind := rfl
@[simp] theorem writeResult_inExp (n : Number) (s : State) : (writeResult n s).inExp = s.inExp := rfl
@[simp] theorem writeResult_inMant (n : Number) (s : State) : (writeResult n s).inMant = s.inMant := rfl
@[simp] theorem writeResult_outKind (n : Number) (s : State) : (writeResult n s).outKind = outKindOf n := rfl
@[simp] theorem writeResult_outExp (n : Number) (s : State) : (writeResult n s).outExp = outExpOf n := rfl
@[simp] theorem writeResult_outMant (n : Number) (s : State) : (writeResult n s).outMant = outMantOf n := rfl
@[simp] theorem writeResult_rcur (n : Number) (s : State) : (writeResult n s).rcur = s.rcur := rfl
@[simp] theorem writeResult_rmask (n : Number) (s : State) : (writeResult n s).rmask = s.rmask := rfl
@[simp] theorem writeResult_wacc (n : Number) (s : State) : (writeResult n s).wacc = s.wacc := rfl
@[simp] theorem writeResult_wmask (n : Number) (s : State) : (writeResult n s).wmask = s.wmask := rfl
@[simp] theorem writeResult_phase (n : Number) (s : State) : (writeResult n s).phase = s.phase := rfl
@[simp] theorem writeResult_lat (n : Number) (s : State) : (writeResult n s).lat = s.lat := rfl
@[simp] theorem writeResult_k (n : Number) (s : State) : (writeResult n s).k = s.k := rfl
@[simp] theorem writeResult_buf (n : Number) (s : State) : (writeResult n s).buf = s.buf := rfl
@[simp] theorem writeResult_pend (n : Number) (s : State) : (writeResult n s).pend = s.pend := rfl
@[simp] theorem writeResult_opened (n : Number) (s : State) : (writeResult n s).opened = s.opened := rfl
@[simp] theorem writeResult_draws (n : Number) (s : State) : (writeResult n s).draws = s.draws := rfl
@[simp] theorem writeResult_inputs (n : Number) (s : State) : (writeResult n s).inputs = s.inputs := rfl
@[simp] theorem writeResult_source (n : Number) (s : State) : (writeResult n s).source = s.source := rfl
@[simp] theorem writeResult_sink (n : Number) (s : State) : (writeResult n s).sink = s.sink := rfl
@[simp] theorem writeResult_drawn (n : Number) (s : State) : (writeResult n s).drawn = s.drawn := rfl
@[simp] theorem writeResult_sunk (n : Number) (s : State) : (writeResult n s).sunk = s.sunk := rfl
@[simp] theorem writeResult_seen (n : Number) (s : State) : (writeResult n s).seen = s.seen := rfl

/-! ## R41, R70: a host read -/

@[simp] theorem hostRead_params (r : RegNo) (s : State) : (hostRead r s).params = s.params := rfl
@[simp] theorem hostRead_status (r : RegNo) (s : State) : (hostRead r s).status = s.status := rfl
@[simp] theorem hostRead_fmtE (r : RegNo) (s : State) : (hostRead r s).fmtE = s.fmtE := rfl
@[simp] theorem hostRead_fmtM (r : RegNo) (s : State) : (hostRead r s).fmtM = s.fmtM := rfl
@[simp] theorem hostRead_fmtBias (r : RegNo) (s : State) : (hostRead r s).fmtBias = s.fmtBias := rfl
@[simp] theorem hostRead_inKind (r : RegNo) (s : State) : (hostRead r s).inKind = s.inKind := rfl
@[simp] theorem hostRead_inExp (r : RegNo) (s : State) : (hostRead r s).inExp = s.inExp := rfl
@[simp] theorem hostRead_inMant (r : RegNo) (s : State) : (hostRead r s).inMant = s.inMant := rfl
@[simp] theorem hostRead_outKind (r : RegNo) (s : State) : (hostRead r s).outKind = s.outKind := rfl
@[simp] theorem hostRead_outExp (r : RegNo) (s : State) : (hostRead r s).outExp = s.outExp := rfl
@[simp] theorem hostRead_outMant (r : RegNo) (s : State) : (hostRead r s).outMant = s.outMant := rfl
@[simp] theorem hostRead_rcur (r : RegNo) (s : State) : (hostRead r s).rcur = s.rcur := rfl
@[simp] theorem hostRead_rmask (r : RegNo) (s : State) : (hostRead r s).rmask = s.rmask := rfl
@[simp] theorem hostRead_wacc (r : RegNo) (s : State) : (hostRead r s).wacc = s.wacc := rfl
@[simp] theorem hostRead_wmask (r : RegNo) (s : State) : (hostRead r s).wmask = s.wmask := rfl
@[simp] theorem hostRead_phase (r : RegNo) (s : State) : (hostRead r s).phase = s.phase := rfl
@[simp] theorem hostRead_lat (r : RegNo) (s : State) : (hostRead r s).lat = s.lat := rfl
@[simp] theorem hostRead_k (r : RegNo) (s : State) : (hostRead r s).k = s.k := rfl
@[simp] theorem hostRead_buf (r : RegNo) (s : State) : (hostRead r s).buf = s.buf := rfl
@[simp] theorem hostRead_pend (r : RegNo) (s : State) : (hostRead r s).pend = s.pend := rfl
@[simp] theorem hostRead_opened (r : RegNo) (s : State) : (hostRead r s).opened = s.opened := rfl
@[simp] theorem hostRead_draws (r : RegNo) (s : State) : (hostRead r s).draws = s.draws := rfl
@[simp] theorem hostRead_inputs (r : RegNo) (s : State) : (hostRead r s).inputs = s.inputs := rfl
@[simp] theorem hostRead_source (r : RegNo) (s : State) : (hostRead r s).source = s.source := rfl
@[simp] theorem hostRead_sink (r : RegNo) (s : State) : (hostRead r s).sink = s.sink := rfl
@[simp] theorem hostRead_drawn (r : RegNo) (s : State) : (hostRead r s).drawn = s.drawn := rfl
@[simp] theorem hostRead_sunk (r : RegNo) (s : State) : (hostRead r s).sunk = s.sunk := rfl
@[simp] theorem hostRead_seen (r : RegNo) (s : State) : (hostRead r s).seen = s.seen ++ [(r, readRegister s r)] := rfl

/-! ## R210 -/

@[simp] theorem resetBlock_params (s : State) : (resetBlock s).params = s.params := rfl
@[simp] theorem resetBlock_status (s : State) : (resetBlock s).status = State.reset.status := rfl
@[simp] theorem resetBlock_fmtE (s : State) : (resetBlock s).fmtE = State.reset.fmtE := rfl
@[simp] theorem resetBlock_fmtM (s : State) : (resetBlock s).fmtM = State.reset.fmtM := rfl
@[simp] theorem resetBlock_fmtBias (s : State) : (resetBlock s).fmtBias = State.reset.fmtBias := rfl
@[simp] theorem resetBlock_inKind (s : State) : (resetBlock s).inKind = State.reset.inKind := rfl
@[simp] theorem resetBlock_inExp (s : State) : (resetBlock s).inExp = State.reset.inExp := rfl
@[simp] theorem resetBlock_inMant (s : State) : (resetBlock s).inMant = State.reset.inMant := rfl
@[simp] theorem resetBlock_outKind (s : State) : (resetBlock s).outKind = State.reset.outKind := rfl
@[simp] theorem resetBlock_outExp (s : State) : (resetBlock s).outExp = State.reset.outExp := rfl
@[simp] theorem resetBlock_outMant (s : State) : (resetBlock s).outMant = State.reset.outMant := rfl
@[simp] theorem resetBlock_rcur (s : State) : (resetBlock s).rcur = State.reset.rcur := rfl
@[simp] theorem resetBlock_rmask (s : State) : (resetBlock s).rmask = State.reset.rmask := rfl
@[simp] theorem resetBlock_wacc (s : State) : (resetBlock s).wacc = State.reset.wacc := rfl
@[simp] theorem resetBlock_wmask (s : State) : (resetBlock s).wmask = State.reset.wmask := rfl
@[simp] theorem resetBlock_phase (s : State) : (resetBlock s).phase = State.reset.phase := rfl
@[simp] theorem resetBlock_lat (s : State) : (resetBlock s).lat = State.reset.lat := rfl
@[simp] theorem resetBlock_k (s : State) : (resetBlock s).k = State.reset.k := rfl
@[simp] theorem resetBlock_buf (s : State) : (resetBlock s).buf = State.reset.buf := rfl
@[simp] theorem resetBlock_pend (s : State) : (resetBlock s).pend = State.reset.pend := rfl
@[simp] theorem resetBlock_opened (s : State) : (resetBlock s).opened = State.reset.opened := rfl
@[simp] theorem resetBlock_draws (s : State) : (resetBlock s).draws = s.draws := rfl
@[simp] theorem resetBlock_inputs (s : State) : (resetBlock s).inputs = s.inputs := rfl
@[simp] theorem resetBlock_source (s : State) : (resetBlock s).source = s.source := rfl
@[simp] theorem resetBlock_sink (s : State) : (resetBlock s).sink = s.sink := rfl
@[simp] theorem resetBlock_drawn (s : State) : (resetBlock s).drawn = s.drawn := rfl
@[simp] theorem resetBlock_sunk (s : State) : (resetBlock s).sunk = s.sunk := rfl
@[simp] theorem resetBlock_seen (s : State) : (resetBlock s).seen = s.seen := rfl

/-! ## R216: other values in the operand registers -/

@[simp] theorem withOperands_params (o : OperandRegs) (s : State) : (s.withOperands o).params = s.params := rfl
@[simp] theorem withOperands_status (o : OperandRegs) (s : State) : (s.withOperands o).status = s.status := rfl
@[simp] theorem withOperands_fmtE (o : OperandRegs) (s : State) : (s.withOperands o).fmtE = o.fmtE := rfl
@[simp] theorem withOperands_fmtM (o : OperandRegs) (s : State) : (s.withOperands o).fmtM = o.fmtM := rfl
@[simp] theorem withOperands_fmtBias (o : OperandRegs) (s : State) : (s.withOperands o).fmtBias = o.fmtBias := rfl
@[simp] theorem withOperands_inKind (o : OperandRegs) (s : State) : (s.withOperands o).inKind = o.inKind := rfl
@[simp] theorem withOperands_inExp (o : OperandRegs) (s : State) : (s.withOperands o).inExp = o.inExp := rfl
@[simp] theorem withOperands_inMant (o : OperandRegs) (s : State) : (s.withOperands o).inMant = o.inMant := rfl
@[simp] theorem withOperands_outKind (o : OperandRegs) (s : State) : (s.withOperands o).outKind = s.outKind := rfl
@[simp] theorem withOperands_outExp (o : OperandRegs) (s : State) : (s.withOperands o).outExp = s.outExp := rfl
@[simp] theorem withOperands_outMant (o : OperandRegs) (s : State) : (s.withOperands o).outMant = s.outMant := rfl
@[simp] theorem withOperands_rcur (o : OperandRegs) (s : State) : (s.withOperands o).rcur = s.rcur := rfl
@[simp] theorem withOperands_rmask (o : OperandRegs) (s : State) : (s.withOperands o).rmask = s.rmask := rfl
@[simp] theorem withOperands_wacc (o : OperandRegs) (s : State) : (s.withOperands o).wacc = s.wacc := rfl
@[simp] theorem withOperands_wmask (o : OperandRegs) (s : State) : (s.withOperands o).wmask = s.wmask := rfl
@[simp] theorem withOperands_phase (o : OperandRegs) (s : State) : (s.withOperands o).phase = s.phase := rfl
@[simp] theorem withOperands_lat (o : OperandRegs) (s : State) : (s.withOperands o).lat = s.lat := rfl
@[simp] theorem withOperands_k (o : OperandRegs) (s : State) : (s.withOperands o).k = s.k := rfl
@[simp] theorem withOperands_buf (o : OperandRegs) (s : State) : (s.withOperands o).buf = s.buf := rfl
@[simp] theorem withOperands_pend (o : OperandRegs) (s : State) : (s.withOperands o).pend = s.pend := rfl
@[simp] theorem withOperands_opened (o : OperandRegs) (s : State) : (s.withOperands o).opened = s.opened := rfl
@[simp] theorem withOperands_draws (o : OperandRegs) (s : State) : (s.withOperands o).draws = s.draws := rfl
@[simp] theorem withOperands_inputs (o : OperandRegs) (s : State) : (s.withOperands o).inputs = s.inputs := rfl
@[simp] theorem withOperands_source (o : OperandRegs) (s : State) : (s.withOperands o).source = s.source := rfl
@[simp] theorem withOperands_sink (o : OperandRegs) (s : State) : (s.withOperands o).sink = s.sink := rfl
@[simp] theorem withOperands_drawn (o : OperandRegs) (s : State) : (s.withOperands o).drawn = s.drawn := rfl
@[simp] theorem withOperands_sunk (o : OperandRegs) (s : State) : (s.withOperands o).sunk = s.sunk := rfl
@[simp] theorem withOperands_seen (o : OperandRegs) (s : State) : (s.withOperands o).seen = s.seen := rfl

end Sys2Proof.Machine
end

