-- ==== Sys2Proof/Laws/Ops.lean ====
section
/-!
SUPPORT. For each shared operation and each meaning one lemma that says everything it can do when it answers a
next state; later proofs cite these instead of unfolding the operation.
-/
namespace Sys2Proof.Machine

/-- The state in which the answer `ok b` of the source has been received (R110). -/
def sourceAnswered (b : Byte) (rest : List SrcAnswer) (s : State) : State :=
  { s with pend := .none, source := rest, drawn := s.drawn ++ [b], rcur := b, rmask := 0x80 }

/-- The state that a failed fetch leaves (R112). -/
def sourceFailed (rest : List SrcAnswer) (s : State) : State :=
  raise .ioFailure { s with pend := .none, source := rest, status := { s.status with rfail := true } }

/-- The state in which the answer `ok` of the sink has been received (R113). -/
def sinkAnswered (b : Byte) (rest : List SnkAnswer) (s : State) : State :=
  { s with pend := .none, sink := rest, sunk := s.sunk ++ [b] }

/-- The state that a failed send leaves (R114). -/
def sinkFailed (rest : List SnkAnswer) (s : State) : State :=
  raise .ioFailure { s with pend := .none, sink := rest, status := { s.status with wfail := true } }

/-- What `readBit` can do (R110, R112, R200): wait, ask for a byte, deliver a bit of the byte in hand, fail, or
deliver the top bit of the byte just received. -/
theorem readBit_cases {cont : Bool → State → Out} {s t : State} (h : readBit cont s = .next t) :
    ((s.pend = .src ∧ s.source = [] ∨ ∃ b, s.pend = .snk b) ∧ t = s) ∨
    (s.pend = .none ∧ s.rmask = 0x00 ∧ t = { s with pend := .src }) ∨
    (s.pend = .none ∧ s.rmask ≠ 0x00 ∧
      cont (s.rcur &&& s.rmask != 0) { s with rmask := s.rmask >>> 1 } = .next t) ∨
    (∃ rest, s.pend = .src ∧ s.source = .fail :: rest ∧ t = sourceFailed rest s) ∨
    (∃ b rest, s.pend = .src ∧ s.source = .ok b :: rest ∧
      deliverBit cont (sourceAnswered b rest s) = .next t) := by
  unfold readBit at h
  split at h
  · rename_i hp
    unfold receiveSource at h
    split at h
    · rename_i hs
      exact .inl ⟨.inl ⟨hp, hs⟩, by injection h with h; exact h.symm⟩
    · rename_i rest hs
      exact .inr (.inr (.inr (.inl ⟨rest, hp, hs, by injection h with h; exact h.symm⟩)))
    · rename_i b rest hs
      exact .inr (.inr (.inr (.inr ⟨b, rest, hp, hs, h⟩)))
  · rename_i b hp
    exact .inl ⟨.inr ⟨b, hp⟩, by injection h with h; exact h.symm⟩
  · rename_i hp
    split at h
    · rename_i hm
      exact .inr (.inl ⟨hp, hm, by injection h with h; exact h.symm⟩)
    · rename_i hm
      exact .inr (.inr (.inl ⟨hp, hm, h⟩))

/-- What `writeBit` can do (R113, R114, R200): wait, send the byte it completes, store a bit, fail, or go on after
the byte is taken. -/
theorem writeBit_cases {b : Bool} {cont : State → Out} {s t : State} (h : writeBit b cont s = .next t) :
    (((∃ o, s.pend = .snk o ∧ s.sink = []) ∨ s.pend = .src) ∧ t = s) ∨
    (s.pend = .none ∧ s.wmask >>> 1 = 0x00 ∧
      t = { s with wacc := 0x00, wmask := 0x80, pend := .snk (accumulate b s) }) ∨
    (s.pend = .none ∧ s.wmask >>> 1 ≠ 0x00 ∧
      cont { s with wacc := accumulate b s, wmask := s.wmask >>> 1 } = .next t) ∨
    (∃ o rest, s.pend = .snk o ∧ s.sink = .fail :: rest ∧ t = sinkFailed rest s) ∨
    (∃ o rest, s.pend = .snk o ∧ s.sink = .ok :: rest ∧ cont (sinkAnswered o rest s) = .next t) := by
  unfold writeBit at h
  split at h
  · rename_i o hp
    unfold receiveSink at h
    split at h
    · rename_i hs
      exact .inl ⟨.inl ⟨o, hp, hs⟩, by injection h with h; exact h.symm⟩
    · rename_i rest hs
      exact .inr (.inr (.inr (.inl ⟨o, rest, hp, hs, by injection h with h; exact h.symm⟩)))
    · rename_i rest hs
      exact .inr (.inr (.inr (.inr ⟨o, rest, hp, hs, h⟩)))
  · rename_i hp
    exact .inl ⟨.inr hp, by injection h with h; exact h.symm⟩
  · rename_i hp
    split at h
    · rename_i hm
      exact .inr (.inl ⟨hp, hm, by injection h with h; exact h.symm⟩)
    · rename_i hm
      exact .inr (.inr (.inl ⟨hp, hm, h⟩))

/-- What the two shared checks of a descriptor say (R131, R161). -/
theorem checkFormat_none {p : Params} {d : Descriptor} (h : checkFormat p d = none) :
    d.n % 8 = 0 ∧ d.e ≤ p.eMax ∧ d.m ≤ p.mMax := by
  unfold checkFormat at h
  split at h
  · cases h
  · split at h
    · cases h
    · omega

/-- What a successful preparation of `ENC` says (R131, R133, R140). -/
theorem encPrepare_ok {p : Params} {l : Latched} {bits : List Bool} (h : encPrepare p l = .ok bits) :
    checkFormat p l.descriptor = none ∧ ¬(l.tag = 3 ∧ l.mant = 0) ∧
      encodeBits l.number l.descriptor = some bits := by
  unfold encPrepare at h
  split at h
  · cases h
  · split at h
    · cases h
    · split at h
      · cases h
      · injection h with h
        subst h
        exact ⟨by assumption, by assumption, by assumption⟩

/-- An encoding that may be sent has at least one byte (R12, R66). -/
theorem eight_le_of_checkFormat {p : Params} {d : Descriptor} (h : checkFormat p d = none) : 8 ≤ d.n := by
  have h1 := (checkFormat_none h).1
  have h2 : 1 ≤ d.n := by unfold Descriptor.n; omega
  omega

/-- Completing `DEC` writes the results, or is refused where the instance cannot hold them (R170). -/
theorem decFinish_cases {s t : State} (h : decFinish s = .next t) :
    resultFits s.params (decodeBits s.buf s.lat.descriptor) = true ∧
      t = complete (writeResult (decodeBits s.buf s.lat.descriptor) s) := by
  unfold decFinish at h
  split at h
  · injection h with h
    exact ⟨by assumption, h.symm⟩
  · cases h

/-- After a bit is read (R162): `DEC` goes on, or ends with its results. -/
theorem decAdvance_cases {b : Bool} {s t : State} (h : decAdvance b s = .next t) :
    (s.k + 1 < s.lat.descriptor.n ∧ t = { s with buf := s.buf ++ [b], k := s.k + 1 }) ∨
    (s.lat.descriptor.n ≤ s.k + 1 ∧
      t = complete (writeResult (decodeBits (s.buf ++ [b]) s.lat.descriptor)
        { s with buf := s.buf ++ [b], k := s.k + 1 })) := by
  unfold decAdvance at h
  split at h
  · injection h with h
    exact .inl ⟨by assumption, h.symm⟩
  · exact .inr ⟨by omega, (decFinish_cases h).2⟩

/-- After a bit is written (R143): `ENC` goes on, or completes. -/
theorem encAdvance_cases {s t : State} (h : encAdvance s = .next t) :
    (s.k + 1 < s.lat.descriptor.n ∧ t = { s with k := s.k + 1 }) ∨
    (s.lat.descriptor.n ≤ s.k + 1 ∧ t = complete { s with k := s.k + 1 }) := by
  unfold encAdvance at h
  split at h <;> injection h with h
  · exact .inl ⟨by assumption, h.symm⟩
  · exact .inr ⟨by omega, h.symm⟩

/-- A fault is impossible: the type has no constructor. -/
theorem exec_ne_fault (i : Instr) (s : State) (r : Fault) : exec i s ≠ .fault r := nomatch r

/-- What one step can do (R73, R95, R222): the reset input, a host write, a host read, a `WAIT` that finds
`BUSY = 0`, or the block's own move. -/
theorem step_cases {s t : State} (h : step s = .next t) :
    (∃ c rest, s.inputs = .reset c :: rest ∧ t = applyReset c { s with inputs := rest }) ∨
    (∃ r v rest, s.inputs = .write r v :: rest ∧ hostWrite r v { s with inputs := rest } = .next t) ∨
    (∃ r rest, s.inputs = .read r :: rest ∧ t = hostRead r { s with inputs := rest }) ∨
    (∃ rest, s.inputs = .wait :: rest ∧ s.status.busy = false ∧ t = { s with inputs := rest }) ∨
    (∃ rest, (rest = s.inputs ∨ s.inputs = .block :: rest) ∧ blockStep { s with inputs := rest } = .next t) := by
  unfold step at h
  split at h
  · rename_i hi
    exact .inr (.inr (.inr (.inr ⟨s.inputs, .inl rfl, h⟩)))
  · rename_i i rest hi
    cases i with
    | reset c =>
      simp only [takeInput] at h
      injection h with h
      exact .inl ⟨c, rest, hi, h.symm⟩
    | write r v => exact .inr (.inl ⟨r, v, rest, hi, h⟩)
    | read r =>
      simp only [takeInput] at h
      injection h with h
      exact .inr (.inr (.inl ⟨r, rest, hi, h.symm⟩))
    | wait =>
      simp only [takeInput] at h
      split at h
      · exact .inr (.inr (.inr (.inr ⟨s.inputs, .inl rfl, h⟩)))
      · rename_i hb
        injection h with h
        exact .inr (.inr (.inr (.inl ⟨rest, hi, by simpa using hb, h.symm⟩)))
    | block => exact .inr (.inr (.inr (.inr ⟨rest, .inr hi, h⟩)))

/-- What a host write can do: run a command, raise `IllegalCommand`, be ignored, or change a register. -/
theorem hostWrite_cases {r : RegNo} {v : Int} {s t : State} (h : hostWrite r v s = .next t) :
    (r = 0x0 ∧ s.status.busy = true ∧ t = s) ∨
    (r = 0x0 ∧ s.status.busy = false ∧ ∃ i, decode (BitVec.ofInt 8 v) = .ok i ∧ exec i s = .next t) ∨
    (r = 0x0 ∧ s.status.busy = false ∧ (∃ e, decode (BitVec.ofInt 8 v) = .error e) ∧ t = illegalCommand s) ∨
    (r ≠ 0x0 ∧ t = writeRegister r v s) := by
  unfold hostWrite at h
  split at h
  · rename_i hr
    have hr : r = 0x0 := hr
    unfold writeCtrl at h
    split at h
    · injection h with h
      exact .inl ⟨hr, by assumption, h.symm⟩
    · rename_i hb
      have hb : s.status.busy = false := by simpa using hb
      split at h
      · rename_i i hi
        exact .inr (.inl ⟨hr, hb, i, hi, h⟩)
      · rename_i e he
        injection h with h
        exact .inr (.inr (.inl ⟨hr, hb, ⟨e, he⟩, h.symm⟩))
  · rename_i hr
    injection h with h
    exact .inr (.inr (.inr ⟨hr, h.symm⟩))

/-- What the block's own move can do: nothing while idle, and the next step of the running command otherwise. -/
theorem blockStep_cases {s t : State} (h : blockStep s = .next t) :
    ((s.status.busy = false ∨ s.phase = .idle) ∧ t = s) ∨
    (s.status.busy = true ∧ s.phase = .enc ∧ execEnc s = .next t) ∨
    (s.status.busy = true ∧ s.phase = .dec ∧ execDec s = .next t) ∨
    (s.status.busy = true ∧ s.phase = .rdb ∧ execRdb s = .next t) ∨
    (s.status.busy = true ∧ s.phase = .wrb ∧ execWrb s.lat.wbit s = .next t) := by
  unfold blockStep at h
  split at h
  · rename_i hb
    split at h
    · rename_i hp
      injection h with h
      exact .inl ⟨.inr hp, h.symm⟩
    · exact .inr (.inl ⟨hb, by assumption, h⟩)
    · exact .inr (.inr (.inl ⟨hb, by assumption, h⟩))
    · exact .inr (.inr (.inr (.inl ⟨hb, by assumption, h⟩)))
    · exact .inr (.inr (.inr (.inr ⟨hb, by assumption, h⟩)))
  · rename_i hb
    injection h with h
    exact .inl ⟨.inl (by simpa using hb), h.symm⟩

/-! ## Running several steps -/

/-- The outcome of going on from an outcome. -/
def andThen (o : Out) (f : State → Out) : Out :=
  match o with
  | .next t    => f t
  | .fault r   => .fault r
  | .refused r => .refused r

@[simp] theorem andThen_next (t : State) (f : State → Out) : andThen (.next t) f = f t := rfl

@[simp] theorem runSteps_zero (s : State) : runSteps 0 s = .next s := rfl

theorem runSteps_succ (k : Nat) (s : State) : runSteps (k + 1) s = andThen (step s) (runSteps k) := by
  rw [runSteps]
  cases step s <;> rfl

/-- Running `a + b` steps is running `a` steps and then `b`. -/
theorem runSteps_add (a b : Nat) (s : State) :
    runSteps (a + b) s = andThen (runSteps a s) (runSteps b) := by
  induction a generalizing s with
  | zero => simp
  | succ a ih =>
    rw [show a + 1 + b = (a + b) + 1 by omega, runSteps_succ, runSteps_succ]
    cases step s with
    | next t => simpa using ih t
    | fault r => rfl
    | refused r => rfl

theorem host_run_next (M : Host.Core) {k : Nat} {s t : M.State} (h : M.step s = .next t) :
    M.run (k + 1) s = M.run k t := by
  simp [Host.Core.run, h]

theorem host_run_refused (M : Host.Core) {k : Nat} {s : M.State} {r : M.Refusal} (h : M.step s = .refused r) :
    M.run (k + 1) s = .refused r := by
  simp [Host.Core.run, h]

/-- The run of the host's interface is the run of the model. -/
theorem core_run_eq (k : Nat) (s : State) : Host.Core.run Sys2Proof.core k s = runSteps k s := by
  induction k generalizing s with
  | zero => rfl
  | succ k ih =>
    cases h : step s with
    | next t =>
      have e : runSteps (k + 1) s = runSteps k t := by simp only [runSteps, h]
      exact (host_run_next Sys2Proof.core h).trans ((ih t).trans e.symm)
    | fault r => exact nomatch r
    | refused r =>
      have e : runSteps (k + 1) s = .refused r := by simp only [runSteps, h]
      exact (host_run_refused Sys2Proof.core h).trans e.symm

end Sys2Proof.Machine
end

