-- ==== Sys2Proof/Certificates/Slice0/Obligations.lean ====
section
/-!
DEFINITION. The statements about the model that the provers settle. Each docstring names the rules of spec/ that
the statement formalises, and says where a clause rests on a choice of the model.
-/
open Sys2Proof Sys2Proof.Machine

/-! ## The command words -/

/-- R90, opcode map: the six legal `CTRL` words and what each decodes to. -/
def Obligations.OpcodeMapDecodes : Prop :=
  decode 0x01 = .ok .enc ∧ decode 0x02 = .ok .dec ∧ decode 0x03 = .ok .rdb ∧
  decode 0x04 = .ok (.wrb false) ∧ decode 0x14 = .ok (.wrb true) ∧ decode 0x05 = .ok .sinit

/-- R89, R90: every command is decoded from its own word, and no other word decodes to it. -/
def Obligations.DecodeInvertsEncode : Prop :=
  (∀ i : Instr, i.wf = true → decode (encode i) = .ok i) ∧
  (∀ (v : Byte) (i : Instr), decode v = .ok i → v = encode i)

/-- R91, R187: which `CTRL` values are illegal, and that a write of one while `BUSY = 0` leaves `BUSY` at 0, sets
`DONE` and the code 6, and changes nothing else. -/
def Obligations.IllegalCommandSetsStatusOnly : Prop :=
  (∀ v : Byte, (∃ e, decode v = .error e) ↔
    (ctrlOp v = 0 ∨ 6 ≤ (ctrlOp v).toNat ∨ ctrlReserved v ≠ 0 ∨ (ctrlWbit v = true ∧ ctrlOp v ≠ 4))) ∧
  (∀ (s : State) (v : Int) (rest : List Input) (e : DecodeReject),
    s.inputs = .write 0x0 v :: rest → s.status.busy = false → decode (BitVec.ofInt 8 v) = .error e →
    step s = .next { s with
      inputs := rest
      status := { s.status with busy := false, done := true, err := 6 } })

/-- R214: a write of `CTRL` while `BUSY = 1` is ignored entirely. -/
def Obligations.CtrlWriteWhileBusyIgnored : Prop :=
  ∀ (s : State) (v : Int) (rest : List Input),
    s.inputs = .write 0x0 v :: rest → s.status.busy = true → step s = .next { s with inputs := rest }

/-- R22, R90, R222: a step runs the decoded command; while a command runs, the block's own move is the next step of
that command; an idle block does not move. That moves stand in a list is log entry 3; that `exec` is one step of its
command is log entry 11. -/
def Obligations.StepRunsTheDecodedCommand : Prop :=
  (∀ (s : State) (v : Int) (rest : List Input) (i : Instr),
    s.inputs = .write 0x0 v :: rest → s.status.busy = false → decode (BitVec.ofInt 8 v) = .ok i →
    i.wf = true → step s = exec i { s with inputs := rest }) ∧
  (∀ (s : State) (i : Instr), s.inputs = [] → s.status.busy = true → runningCommand s = some i →
    step s = exec i s) ∧
  (∀ (s : State) (i : Instr) (rest : List Input), s.inputs = .block :: rest → s.status.busy = true →
    runningCommand s = some i → step s = exec i { s with inputs := rest }) ∧
  (∀ s : State, s.inputs = [] → s.status.busy = false → step s = .next s)

/-! ## Acceptance -/

/-- R90, R45: while `BUSY = 0`, each of `ENC`, `DEC`, `RDB` and `WRB` is accepted in one step that sets `BUSY`,
clears `DONE` and `ERR`, latches the operands and enters the command's phase. The field `opened` is the model's own
(log entry 2). -/
def Obligations.AcceptanceEntersThePhase : Prop :=
  ∀ (s : State) (w : Bool), s.status.busy = false →
    exec .enc s = .next { s with
      status := { s.status with busy := true, done := false, err := 0 }
      lat := latchOperands false s, phase := .enc, opened := false } ∧
    exec .dec s = .next { s with
      status := { s.status with busy := true, done := false, err := 0 }
      lat := latchOperands false s, phase := .dec, opened := false } ∧
    exec .rdb s = .next { s with
      status := { s.status with busy := true, done := false, err := 0 }
      lat := latchOperands false s, phase := .rdb, opened := false } ∧
    exec (.wrb w) s = .next { s with
      status := { s.status with busy := true, done := false, err := 0 }
      lat := latchOperands w s, phase := .wrb, opened := false }

/-- R45: acceptance copies every operand, and all later steps of the command read only the copies: with any other
values in the operand registers, a running command does the same. -/
def Obligations.OperandsAreLatchedAtAcceptance : Prop :=
  (∀ (i : Instr) (s : State), s.status.busy = false → ∃ t, exec i s = .next t ∧
    t.lat = { e := s.fmtE, m := s.fmtM, bias := s.fmtBias, tag := s.inKind.extractLsb' 0 2,
              sign := s.inKind.getLsbD 2, exp := s.inExp, mant := s.inMant, wbit := (encode i).getLsbD 4 }) ∧
  (∀ (i : Instr) (s : State) (o : OperandRegs), s.status.busy = true →
    exec i (s.withOperands o) = mapNext (fun t => t.withOperands o) (exec i s))

/-! ## The stream commands -/

/-- R119: `SINIT` re-initialises both adapters and completes in the acceptance step. -/
def Obligations.SinitReinitialisesBothAdapters : Prop :=
  encode .sinit = 0x05 ∧
  ∀ s : State, s.status.busy = false →
    exec .sinit s = .next { s with
      status := { busy := false, done := true, err := 0, rbit := s.status.rbit, rfail := false, wfail := false }
      lat := latchOperands false s, phase := .idle, opened := false
      rcur := 0x00, rmask := 0x00, wacc := 0x00, wmask := 0x80 }

/-- R117: what a running `RDB` does. A set `RFAIL` ends it with `IOFailure` and no transaction; a bit of the byte in
hand is delivered into `RBIT` with no transaction; with `RMASK = 0x00` one byte is asked for, and its bit 7 is
delivered when it comes; a failed fetch ends the command with `RFAIL` set and `RBIT` as it was. -/
def Obligations.RdbReadsOneBit : Prop :=
  encode .rdb = 0x03 ∧
  ∀ s : State, s.status.busy = true → s.phase = .rdb →
    (s.pend = .none → s.status.rfail = true → exec .rdb s = .next { s with
      status := { s.status with busy := false, done := true, err := 3 }, phase := .idle, opened := false }) ∧
    (s.pend = .none → s.status.rfail = false → s.rmask ≠ 0x00 → exec .rdb s = .next { s with
      status := { s.status with busy := false, done := true, err := 0, rbit := (s.rcur &&& s.rmask) != 0 }
      rmask := s.rmask >>> 1, phase := .idle, opened := false }) ∧
    (s.pend = .none → s.status.rfail = false → s.rmask = 0x00 → exec .rdb s = .next { s with pend := .src }) ∧
    (∀ (b : Byte) (rest : List SrcAnswer), s.pend = .src → s.source = .ok b :: rest → exec .rdb s = .next { s with
      status := { s.status with busy := false, done := true, err := 0, rbit := b.getLsbD 7 }
      rcur := b, rmask := 0x40, pend := .none, source := rest, drawn := s.drawn ++ [b]
      phase := .idle, opened := false }) ∧
    (∀ rest : List SrcAnswer, s.pend = .src → s.source = .fail :: rest → exec .rdb s = .next { s with
      status := { s.status with busy := false, done := true, err := 3, rfail := true }
      pend := .none, source := rest, phase := .idle, opened := false })

/-- R118: what a running `WRB` does with the latched bit. A set `WFAIL` ends it with `IOFailure` and no transaction;
a bit that does not complete a byte goes into `WACC`; the bit that completes one resets the writer and sends the
byte; the command completes when the byte is taken, and ends with `WFAIL` set when it is refused. -/
def Obligations.WrbWritesOneBit : Prop :=
  encode (.wrb false) = 0x04 ∧ encode (.wrb true) = 0x14 ∧
  ∀ (w : Bool) (s : State), s.status.busy = true → s.phase = .wrb →
    (s.pend = .none → s.status.wfail = true → exec (.wrb w) s = .next { s with
      status := { s.status with busy := false, done := true, err := 3 }, phase := .idle, opened := false }) ∧
    (s.pend = .none → s.status.wfail = false → s.wmask >>> 1 ≠ 0x00 → exec (.wrb w) s = .next { s with
      status := { s.status with busy := false, done := true, err := 0 }
      wacc := if s.lat.wbit then s.wacc ||| s.wmask else s.wacc
      wmask := s.wmask >>> 1, phase := .idle, opened := false }) ∧
    (s.pend = .none → s.status.wfail = false → s.wmask >>> 1 = 0x00 → exec (.wrb w) s = .next { s with
      wacc := 0x00, wmask := 0x80
      pend := .snk (if s.lat.wbit then s.wacc ||| s.wmask else s.wacc) }) ∧
    (∀ (b : Byte) (rest : List SnkAnswer), s.pend = .snk b → s.sink = .ok :: rest → exec (.wrb w) s = .next { s with
      status := { s.status with busy := false, done := true, err := 0 }
      pend := .none, sink := rest, sunk := s.sunk ++ [b], phase := .idle, opened := false }) ∧
    (∀ (b : Byte) (rest : List SnkAnswer), s.pend = .snk b → s.sink = .fail :: rest → exec (.wrb w) s = .next { s with
      status := { s.status with busy := false, done := true, err := 3, wfail := true }
      pend := .none, sink := rest, phase := .idle, opened := false })

/-- R63: bit order within a byte. The bit the reader delivers is the one `RMASK` stands at, from bit 7 of a fetched
byte down to bit 0; the bit the writer receives goes to the position `WMASK` stands at, from bit 7 of the next byte
down to bit 0, where the byte is complete and sent. -/
def Obligations.BitOrderIsMsbFirst : Prop :=
  (∀ (s : State) (j : Nat), s.status.busy = true → s.phase = .rdb → s.pend = .none → s.status.rfail = false →
    j < 8 → s.rmask = BitVec.twoPow 8 j → ∃ t, exec .rdb s = .next t ∧ t.status.rbit = s.rcur.getLsbD j ∧
      t.rcur = s.rcur ∧ t.rmask = (if j = 0 then 0x00 else BitVec.twoPow 8 (j - 1))) ∧
  (∀ (s : State) (b : Byte) (rest : List SrcAnswer), s.status.busy = true → s.phase = .rdb → s.pend = .src →
    s.source = .ok b :: rest → ∃ t, exec .rdb s = .next t ∧ t.status.rbit = b.getLsbD 7 ∧
      t.rcur = b ∧ t.rmask = BitVec.twoPow 8 6) ∧
  (∀ (s : State) (w : Bool) (j : Nat), s.status.busy = true → s.phase = .wrb → s.pend = .none →
    s.status.wfail = false → j < 8 → s.wmask = BitVec.twoPow 8 j → s.wacc.getLsbD j = false →
    ∃ t, exec (.wrb w) s = .next t ∧
      (1 ≤ j → t.wmask = BitVec.twoPow 8 (j - 1) ∧ t.wacc.getLsbD j = s.lat.wbit ∧
        ∀ i, i ≠ j → t.wacc.getLsbD i = s.wacc.getLsbD i) ∧
      (j = 0 → t.wmask = BitVec.twoPow 8 7 ∧ t.wacc = 0x00 ∧ ∃ b, t.pend = .snk b ∧
        b.getLsbD 0 = s.lat.wbit ∧ ∀ i, i ≠ 0 → b.getLsbD i = s.wacc.getLsbD i))

/-- R112: a failed fetch, in `RDB` and in `DEC`, sets `RFAIL`, raises `IOFailure`, delivers no bit and leaves `RCUR`
and `RMASK` as they were; the request is not issued again. -/
def Obligations.FailedFetchLeavesTheReader : Prop :=
  ∀ (s : State) (rest : List SrcAnswer), s.status.busy = true → s.pend = .src → s.source = .fail :: rest →
    (s.phase = .rdb → exec .rdb s = .next { s with
      status := { s.status with busy := false, done := true, err := 3, rfail := true }
      pend := .none, source := rest, phase := .idle, opened := false }) ∧
    (s.phase = .dec → s.opened = true → exec .dec s = .next { s with
      status := { s.status with busy := false, done := true, err := 3, rfail := true }
      pend := .none, source := rest, phase := .idle, opened := false }) ∧
    (Inv s → s.rmask = 0x00)

/-- R114: a refused send, in `WRB` and in `ENC`, sets `WFAIL` and raises `IOFailure`; the byte is lost, the writer is
already at `WACC = 0x00`, `WMASK = 0x80`, and the request is not issued again. -/
def Obligations.RefusedSendLosesTheByte : Prop :=
  ∀ (s : State) (w : Bool) (b : Byte) (rest : List SnkAnswer),
    s.status.busy = true → s.pend = .snk b → s.sink = .fail :: rest →
    (s.phase = .wrb → exec (.wrb w) s = .next { s with
      status := { s.status with busy := false, done := true, err := 3, wfail := true }
      pend := .none, sink := rest, phase := .idle, opened := false }) ∧
    (s.phase = .enc → s.opened = true → exec .enc s = .next { s with
      status := { s.status with busy := false, done := true, err := 3, wfail := true }
      pend := .none, sink := rest, phase := .idle, opened := false }) ∧
    (Inv s → s.wacc = 0x00 ∧ s.wmask = 0x80)

/-- R118, R120: eight `WRB` commands from a byte boundary, each waited for, send exactly the one byte their bits
form, MSB-first, and leave the writer at a byte boundary. The number of steps rests on log entries 3 and 7. -/
def Obligations.EightWrbSendOneByte : Prop :=
  ∀ (s : State) (bits : List Bool) (rest : List SnkAnswer), bits.length = 8 →
    s.status.busy = false → s.pend = .none → s.status.wfail = false → s.wacc = 0x00 → s.wmask = 0x80 →
    s.inputs = bits.flatMap (fun b => [.write 0x0 (encode (.wrb b)).toNat, .wait]) → s.sink = .ok :: rest →
    ∃ t, runSteps 25 s = .next t ∧ t.inputs = [] ∧ t.sunk = s.sunk ++ [byteOfBits bits] ∧ t.sink = rest ∧
      t.wacc = 0x00 ∧ t.wmask = 0x80 ∧ t.status = { s.status with done := true, err := 0 }

/-! ## The encoder -/

/-- R134, R135, R136: the encodings of zeros, infinities and NaN. -/
def Obligations.ZeroInfinityNanEncodings : Prop :=
  ∀ (d : Descriptor) (s : Bool),
    encodeBits (.zero s) d = some ([s] ++ List.replicate d.e false ++ List.replicate d.m false) ∧
    encodeBits (.infinity s) d = some ([s] ++ List.replicate d.e true ++ List.replicate d.m false) ∧
    (1 ≤ d.m → encodeBits .nan d =
      some ([false] ++ List.replicate d.e true ++ [true] ++ List.replicate (d.m - 1) false)) ∧
    (d.m = 0 → encodeBits .nan d = some ([false] ++ List.replicate d.e true) ∧
      encodeBits .nan d = encodeBits (.infinity false) d)

/-- R137, R138, R139, R141 (and the two cases of R140): the encoding of a finite number, bit by bit. `L` is the
position of the top set bit of `m`. -/
def Obligations.FiniteEncodingBitByBit : Prop :=
  ∀ (s : Bool) (e : Int) (m : Nat) (d : Descriptor) (L f : Int),
    1 ≤ m → L = (m.log2 : Int) → f = e + d.bias + L →
    (f ≤ 0 → d.m + f ≤ 0 → encodeBits (.finite s e m) d = some ([s] ++ List.replicate d.e false ++ List.replicate d.m false)) ∧
    (f ≤ 0 → 1 ≤ d.m + f → ∃ B, encodeBits (.finite s e m) d = some B ∧
      B.length = 1 + d.e + d.m ∧ B[0]? = some s ∧
      (∀ i < d.e, B[1 + i]? = some false) ∧
      (∀ j < d.m, B[1 + d.e + j]? = some (testBitAt m (L - f - j)))) ∧
    (1 ≤ f → f < 2 ^ d.e - 1 → ∃ B, encodeBits (.finite s e m) d = some B ∧
      B.length = 1 + d.e + d.m ∧ B[0]? = some s ∧
      (∀ i < d.e, B[1 + i]? = some (f.toNat.testBit (d.e - 1 - i))) ∧
      (∀ j < d.m, B[1 + d.e + j]? = some (testBitAt m (L - 1 - j)))) ∧
    (1 ≤ f → 2 ^ d.e - 1 ≤ f → encodeBits (.finite s e m) d = none)

/-- R142. For `E ≥ 1` and no overflow, the encoding has the largest magnitude that a finite encoding of the format
can hold and that is at most `m * 2^e`; the sign is kept, the exponent field is `f`, or 0 below the normal range,
and the class depends on `f` alone. And a value from the largest finite encoding up to, but excluding,
`2^(allOnes(E) - bias)` has `f = allOnes(E) - 1` and encodes as the largest finite encoding (`2 ≤ E + M` holds for
every valid descriptor). -/
def Obligations.EncoderTruncatesTowardZero : Prop :=
  (∀ (s : Bool) (e : Int) (m : Nat) (d : Descriptor) (B : List Bool),
    1 ≤ d.e → 1 ≤ m → encodeBits (.finite s e m) d = some B →
    signOf B = s ∧
    (exponentField B d : Int) = max (biasedExponent e m d) 0 ∧ exponentField B d < 2 ^ d.e - 1 ∧
    (exponentField B d = 0 ∧ mantissaField B d = 0 ↔ d.m + biasedExponent e m d ≤ 0) ∧
    ∃ q : ℚ, magnitude (decodeBits B d) = some q ∧ q ≤ (m : ℚ) * 2 ^ e ∧
      ∀ (B' : List Bool) (q' : ℚ), B'.length = d.n → magnitude (decodeBits B' d) = some q' →
        q' ≤ (m : ℚ) * 2 ^ e → q' ≤ q) ∧
  (∀ (s : Bool) (e : Int) (m : Nat) (d : Descriptor) (B : List Bool) (q : ℚ),
    1 ≤ d.e → 2 ≤ d.e + d.m → 1 ≤ m → B = [s] ++ bitsE (2 ^ d.e - 2) d.e ++ List.replicate d.m true →
    magnitude (decodeBits B d) = some q → q ≤ (m : ℚ) * 2 ^ e → (m : ℚ) * 2 ^ e < 2 ^ (2 ^ d.e - 1 - d.bias) →
    biasedExponent e m d = 2 ^ d.e - 2 ∧ encodeBits (.finite s e m) d = some B)

/-- R85: the canonical NaN, as bits and as an integer, and what it decodes to; for `M = 0` it is the encoding of `+Infinity`. -/
def Obligations.CanonicalNan : Prop :=
  ∀ d : Descriptor,
    (1 ≤ d.m → ∃ B, encodeBits .nan d = some B ∧
      B = [false] ++ List.replicate d.e true ++ [true] ++ List.replicate (d.m - 1) false ∧
      ofBits B = (2 ^ d.e - 1) * 2 ^ d.m + 2 ^ (d.m - 1) ∧ decodeBits B d = .nan) ∧
    (d.m = 0 → ∃ B, encodeBits .nan d = some B ∧ B = [false] ++ List.replicate d.e true ∧
      encodeBits (.infinity false) d = some B ∧ decodeBits B d = .infinity false)

/-- R86: the four standard descriptors, their lengths in bits and in bytes, and their canonical NaN and `+Infinity` patterns. -/
def Obligations.StandardDescriptors : Prop :=
  Config.standard .half = ⟨5, 10, 15⟩ ∧ Config.standard .single = ⟨8, 23, 127⟩ ∧
  Config.standard .double = ⟨11, 52, 1023⟩ ∧ Config.standard .quadruple = ⟨15, 112, 16383⟩ ∧
  (Config.standard .half).n = 16 ∧ (Config.standard .half).n / 8 = 2 ∧
  (Config.standard .single).n = 32 ∧ (Config.standard .single).n / 8 = 4 ∧
  (Config.standard .double).n = 64 ∧ (Config.standard .double).n / 8 = 8 ∧
  (Config.standard .quadruple).n = 128 ∧ (Config.standard .quadruple).n / 8 = 16 ∧
  (encodeBits .nan (Config.standard .half)).map ofBits = some 0x7E00 ∧
  (encodeBits .nan (Config.standard .single)).map ofBits = some 0x7FC00000 ∧
  (encodeBits .nan (Config.standard .double)).map ofBits = some 0x7FF8000000000000 ∧
  (encodeBits .nan (Config.standard .quadruple)).map ofBits = some 0x7FFF8000000000000000000000000000 ∧
  (encodeBits (.infinity false) (Config.standard .half)).map ofBits = some 0x7C00 ∧
  (encodeBits (.infinity false) (Config.standard .single)).map ofBits = some 0x7F800000 ∧
  (encodeBits (.infinity false) (Config.standard .double)).map ofBits = some 0x7FF0000000000000 ∧
  (encodeBits (.infinity false) (Config.standard .quadruple)).map ofBits = some 0x7FFF0000000000000000000000000000

/-- R182, R186: the two format errors of `ENC` and `DEC`, raised by the first step after acceptance: the codes, and
that adapters, ports, `BUF`, `K` and the result registers are untouched. In the reference model the second is never
raised. That this is the first step is log entry 2. -/
def Obligations.FormatErrorsTouchNothing : Prop :=
  (∀ s : State, s.status.busy = true → s.opened = false → (s.phase = .enc ∨ s.phase = .dec) →
    ((1 + s.lat.e.toNat + s.lat.m.toNat) % 8 ≠ 0 →
      ∀ i, runningCommand s = some i → exec i s = .next { s with
        status := { s.status with busy := false, done := true, err := 1 }, phase := .idle, opened := false }) ∧
    ((1 + s.lat.e.toNat + s.lat.m.toNat) % 8 = 0 →
      (s.params.eMax < s.lat.e.toNat ∨ s.params.mMax < s.lat.m.toNat) →
      ∀ i, runningCommand s = some i → exec i s = .next { s with
        status := { s.status with busy := false, done := true, err := 5 }, phase := .idle, opened := false })) ∧
  (∀ l : Latched, l.e.toNat ≤ Config.reference.eMax ∧ l.m.toNat ≤ Config.reference.mMax)

/-- R185, and the precedence of `InvalidOperand` over `ExponentOverflow` (R188): a `Finite` operand with mantissa 0
ends `ENC` with code 4, whatever its exponent; a finite operand whose biased exponent is at least 1 and reaches the
all-ones value ends it with code 2. Either way nothing is sent and the writer is untouched. That this happens in the
first step after acceptance is log entry 2. -/
def Obligations.OperandErrorsTouchNothing : Prop :=
  ∀ s : State, s.status.busy = true → s.phase = .enc → s.opened = false →
    (1 + s.lat.e.toNat + s.lat.m.toNat) % 8 = 0 →
    s.lat.e.toNat ≤ s.params.eMax → s.lat.m.toNat ≤ s.params.mMax → s.lat.tag = 3 →
    (s.lat.mant = 0 → exec .enc s = .next { s with
      status := { s.status with busy := false, done := true, err := 4 }, phase := .idle, opened := false }) ∧
    (1 ≤ s.lat.mant → 1 ≤ s.lat.exp + s.lat.bias + s.lat.mant.log2 →
      (2 ^ s.lat.e.toNat - 1 : Int) ≤ s.lat.exp + s.lat.bias + s.lat.mant.log2 →
      exec .enc s = .next { s with
        status := { s.status with busy := false, done := true, err := 2 }, phase := .idle, opened := false })

/-- R131, R133, R140, R143, R144, R46: when the checks of `ENC` pass, and its steps when they do. The first step sets up `BUF`, `K` and the writer and
writes `BUF[0]`; a step writes `BUF[K]` and advances `K`; the eighth bit of a byte sends the byte; when it is taken
`K` advances, and the command completes at `K = N`. That the checks stand in the first bit's step is log entry 2. -/
def Obligations.EncSteps : Prop :=
  (∀ (p : Params) (l : Latched) (bits : List Bool), encPrepare p l = .ok bits ↔
    (1 + l.e.toNat + l.m.toNat) % 8 = 0 ∧ l.e.toNat ≤ p.eMax ∧ l.m.toNat ≤ p.mMax ∧
      ¬(l.tag = 3 ∧ l.mant = 0) ∧ encodeBits l.number l.descriptor = some bits) ∧
  (∀ s : State, s.status.busy = true → s.phase = .enc →
    (∀ bits, s.opened = false → s.pend = .none → encPrepare s.params s.lat = .ok bits → exec .enc s = .next { s with
      status := { s.status with wfail := false }, opened := true, buf := bits, k := 1
      wacc := if bits.headD false then 0x80 else 0x00, wmask := 0x40 }) ∧
    (s.opened = true → s.pend = .none → s.wmask >>> 1 ≠ 0x00 → s.k + 1 < s.lat.descriptor.n →
      exec .enc s = .next { s with
        wacc := if s.buf.getD s.k false then s.wacc ||| s.wmask else s.wacc
        wmask := s.wmask >>> 1, k := s.k + 1 }) ∧
    (s.opened = true → s.pend = .none → s.wmask >>> 1 = 0x00 → exec .enc s = .next { s with
      wacc := 0x00, wmask := 0x80
      pend := .snk (if s.buf.getD s.k false then s.wacc ||| s.wmask else s.wacc) }) ∧
    (∀ b rest, s.opened = true → s.pend = .snk b → s.sink = .ok :: rest → s.k + 1 < s.lat.descriptor.n →
      exec .enc s = .next { s with
        pend := .none, sink := rest, sunk := s.sunk ++ [b], k := s.k + 1 }) ∧
    (∀ b rest, s.opened = true → s.pend = .snk b → s.sink = .ok :: rest → s.k + 1 = s.lat.descriptor.n →
      exec .enc s = .next { s with
        status := { s.status with busy := false, done := true, err := 0 }
        pend := .none, sink := rest, sunk := s.sunk ++ [b], k := s.lat.descriptor.n
        phase := .idle, opened := false }))

/-- R143, R144, R68: a whole `ENC`, from its `CTRL` write to its end, with a sink that accepts every byte. It takes
one acceptance step, one step per bit and one answer step per byte; the sink has then received exactly the bytes of
`EncodeBits` of the operand registers, in order; nothing else of the machine has changed but what is named. The
number of steps rests on log entries 2 and 3; that `BUF` keeps its value after the end is log entry 12. -/
def Obligations.EncRunSendsTheEncoding : Prop :=
  ∀ (s : State) (bits : List Bool) (rest : List SnkAnswer),
    s.status.busy = false → s.pend = .none → s.inputs = [.write 0x0 0x01] →
    encPrepare s.params (latchOperands false s) = .ok bits →
    s.sink = List.replicate (bits.length / 8) .ok ++ rest →
    runSteps (1 + bits.length + bits.length / 8) s = .next { s with
      inputs := [], sink := rest, sunk := s.sunk ++ packBytes (bits.length / 8) bits
      status := { s.status with busy := false, done := true, err := 0, wfail := false }
      lat := latchOperands false s, phase := .idle, opened := false
      buf := bits, k := bits.length, wacc := 0x00, wmask := 0x80 }

/-- R143, R144, R132, R88, under any schedule: whatever the host does meanwhile, when an `ENC` ends without error the
last bytes the sink has taken are the bytes of `EncodeBits` of the latched operands. The latched operands stand for
the descriptor `(LE, LM, LBIAS)` and for the number that `LTAG` selects: a zero or an infinity of sign `LSIGN`, a NaN
whatever `LSIGN` is, or `Finite(LSIGN, LEXP, LMANT)`. -/
def Obligations.EncEndsWithItsBytesSent : Prop :=
  (∀ s t : State, Inv s → s.phase = .enc → ¬ResetNext s → step s = .next t → t.status.busy = false →
    t.status.err = 0 → ∃ bits before, encodeBits s.lat.number s.lat.descriptor = some bits ∧
      t.sunk = before ++ packBytes (s.lat.descriptor.n / 8) bits ∧
      t.wacc = 0x00 ∧ t.wmask = 0x80 ∧ t.k = s.lat.descriptor.n) ∧
  (∀ l : Latched, l.descriptor = ⟨l.e.toNat, l.m.toNat, l.bias⟩ ∧
    (l.tag = 0 → l.number = .zero l.sign) ∧ (l.tag = 1 → l.number = .infinity l.sign) ∧
    (l.tag = 2 → l.number = .nan) ∧ (l.tag = 3 → l.number = .finite l.sign l.exp l.mant))

/-- R64: bit `B[i]` of an encoding travels in byte `i / 8` of the command's bytes, at bit position `7 - i mod 8`. -/
def Obligations.EncodingBitPlacement : Prop :=
  ∀ (B : List Bool) (count i : Nat), B.length = 8 * count → i < B.length →
    ∃ b, (packBytes count B)[i / 8]? = some b ∧ B[i]? = some (b.getLsbD (7 - i % 8)) ∧
      (bitsOfBytes (packBytes count B))[i]? = B[i]?

/-! ## The decoder -/

/-- R81: the fields of an encoding are the fields of the integer `W` it forms, and the sums that define them. -/
def Obligations.FieldsOfTheInteger : Prop :=
  ∀ (B : List Bool) (d : Descriptor), B.length = d.n →
    signOf B = (ofBits B).testBit (d.n - 1) ∧
    exponentField B d = ofBits B / 2 ^ d.m % 2 ^ d.e ∧
    mantissaField B d = ofBits B % 2 ^ d.m ∧
    exponentField B d = ∑ i ∈ Finset.range d.e, (B.getD (1 + i) false).toNat * 2 ^ (d.e - 1 - i) ∧
    mantissaField B d = ∑ j ∈ Finset.range d.m, (B.getD (d.e + 1 + j) false).toNat * 2 ^ (d.m - 1 - j)

/-- R164, first sentence; R10: a field of `E` bits has `E` bits set exactly when it is `allOnes(E)`. -/
def Obligations.PopcountMeetsAllOnes : Prop :=
  ∀ E f : Nat, f < 2 ^ E → popcount f ≤ E ∧ (popcount f = E ↔ f = allOnes E)

/-- R83: the class of an encoding by its fields, and the value of a finite one. -/
def Obligations.DecodedClassAndValue : Prop :=
  ∀ (B : List Bool) (d : Descriptor) (f mf : Nat), B.length = d.n → f = exponentField B d →
    mf = mantissaField B d →
    (f = 2 ^ d.e - 1 → mf ≠ 0 → decodeBits B d = .nan) ∧
    (f = 2 ^ d.e - 1 → mf = 0 → decodeBits B d = .infinity (signOf B)) ∧
    (f = 0 → 1 ≤ d.e → mf = 0 → decodeBits B d = .zero (signOf B)) ∧
    (f = 0 → 1 ≤ d.e → mf ≠ 0 → ∃ e m, decodeBits B d = .finite (signOf B) e m ∧
      (m : ℚ) * 2 ^ e = (mf : ℚ) * 2 ^ (1 - d.bias - (d.m : Int))) ∧
    (1 ≤ f → f < 2 ^ d.e - 1 → ∃ e m, decodeBits B d = .finite (signOf B) e m ∧
      (m : ℚ) * 2 ^ e = ((2 : ℚ) ^ d.m + mf) * 2 ^ ((f : Int) - d.bias - (d.m : Int))) ∧
    (d.e = 0 → f = 2 ^ d.e - 1)

/-- R172: every decoded finite number has an odd mantissa between 1 and `2^(M+1) - 1`. -/
def Obligations.DecodedMantissaIsOdd : Prop :=
  ∀ (B : List Bool) (d : Descriptor) (s : Bool) (e : Int) (m : Nat), decodeBits B d = .finite s e m →
    m % 2 = 1 ∧ 1 ≤ m ∧ m ≤ 2 ^ (d.m + 1) - 1

/-- R173: the ranges of a decoded finite number, for `E ≥ 1`. -/
def Obligations.DecodedRanges : Prop :=
  ∀ (B : List Bool) (d : Descriptor) (s : Bool) (e : Int) (m : Nat), 1 ≤ d.e → B.length = d.n →
    decodeBits B d = .finite s e m →
    (exponentField B d = 0 → bitLength m ≤ d.m ∧ 1 - d.m - d.bias ≤ e ∧ e ≤ -d.bias) ∧
    (exponentField B d ≠ 0 → bitLength m ≤ d.m + 1 ∧ 1 - d.bias - d.m ≤ e ∧ e ≤ 2 ^ d.e - 1 - 1 - d.bias) ∧
    1 - d.m - d.bias ≤ e + bitLength m - 1 ∧ e + bitLength m - 1 ≤ 2 ^ d.e - 1 - 1 - d.bias

/-- R174, first sentences: for `E ≥ 1`, decode and re-encode is the identity on every pattern that is not a NaN, and
gives the canonical NaN on every pattern that is. -/
def Obligations.DecodeThenEncodeIsIdentity : Prop :=
  ∀ (B : List Bool) (d : Descriptor), 1 ≤ d.e → B.length = d.n →
    (decodeBits B d ≠ .nan → encodeBits (decodeBits B d) d = some B) ∧
    (decodeBits B d = .nan → ∃ C, encodeBits (decodeBits B d) d = some C ∧
      ofBits C = (2 ^ d.e - 1) * 2 ^ d.m + 2 ^ (d.m - 1))

/-- R161, R162, R46: when the checks of `DEC` pass, and its steps before the last bit. The first step sets up the reader, `BUF` and `K` and asks for
the first byte; a bit goes to the end of `BUF` and `K` advances; a byte is asked for only when no bit is left. That
the checks stand in the first bit's step is log entry 2. -/
def Obligations.DecSteps : Prop :=
  (∀ (p : Params) (d : Descriptor), checkFormat p d = none ↔
    (1 + d.e + d.m) % 8 = 0 ∧ d.e ≤ p.eMax ∧ d.m ≤ p.mMax) ∧
  (∀ s : State, s.status.busy = true → s.phase = .dec →
    (s.opened = false → s.pend = .none → checkFormat s.params s.lat.descriptor = none → exec .dec s = .next { s with
      status := { s.status with rfail := false }, rcur := 0x00, rmask := 0x00
      opened := true, buf := [], k := 0, pend := .src }) ∧
    (s.opened = true → s.pend = .none → s.rmask ≠ 0x00 → s.k + 1 < s.lat.descriptor.n → exec .dec s = .next { s with
      rmask := s.rmask >>> 1, buf := s.buf ++ [(s.rcur &&& s.rmask) != 0], k := s.k + 1 }) ∧
    (s.opened = true → s.pend = .none → s.rmask = 0x00 → exec .dec s = .next { s with pend := .src }) ∧
    (∀ b rest, s.opened = true → s.pend = .src → s.source = .ok b :: rest → s.k + 1 < s.lat.descriptor.n →
      exec .dec s = .next { s with
        pend := .none, source := rest, drawn := s.drawn ++ [b], rcur := b, rmask := 0x40
        buf := s.buf ++ [b.getLsbD 7], k := s.k + 1 }))

/-- R170, R73: the last bit of `DEC`. The results and the end of the command are one step; the results are those of
the table, by the case of the decoded number. -/
def Obligations.DecWritesItsResult : Prop :=
  (∀ (s : State) (n : Number), s.status.busy = true → s.phase = .dec → s.opened = true → s.pend = .none →
    s.rmask ≠ 0x00 → s.k + 1 = s.lat.descriptor.n →
    n = decodeBits (s.buf ++ [(s.rcur &&& s.rmask) != 0]) s.lat.descriptor → resultFits s.params n = true →
    exec .dec s = .next { s with
      status := { s.status with busy := false, done := true, err := 0 }
      rmask := s.rmask >>> 1, buf := s.buf ++ [(s.rcur &&& s.rmask) != 0], k := s.lat.descriptor.n
      outKind := outKindOf n, outExp := outExpOf n, outMant := outMantOf n
      phase := .idle, opened := false }) ∧
  (∀ (g : Bool) (e : Int) (m : Nat),
    (outKindOf (.zero g) = (if g then 0x04 else 0x00) ∧ outExpOf (.zero g) = 0 ∧ outMantOf (.zero g) = 0) ∧
    (outKindOf (.infinity g) = (if g then 0x05 else 0x01) ∧ outExpOf (.infinity g) = 0 ∧
      outMantOf (.infinity g) = 0) ∧
    (outKindOf .nan = 0x02 ∧ outExpOf .nan = 0 ∧ outMantOf .nan = 0) ∧
    (outKindOf (.finite g e m) = (if g then 0x07 else 0x03) ∧ outExpOf (.finite g e m) = e ∧
      outMantOf (.finite g e m) = m))

/-- The model's choice for what R170 puts outside the spec (93_implementation_defined.md U8; log entry 9): at its last
bit, a `DEC` whose result the instance's registers cannot hold is refused by name, and this is the only refusal of
any command. -/
def Obligations.NarrowInstanceIsRefused : Prop :=
  (∀ (s : State) (n : Number), s.status.busy = true → s.phase = .dec → s.opened = true → s.pend = .none →
    s.rmask ≠ 0x00 → s.k + 1 = s.lat.descriptor.n →
    n = decodeBits (s.buf ++ [(s.rcur &&& s.rmask) != 0]) s.lat.descriptor → resultFits s.params n = false →
    exec .dec s = .refused .resultWiderThanInstance) ∧
  (∀ (i : Instr) (s : State) (r : Refusal), exec i s = .refused r →
    i = .dec ∧ r = .resultWiderThanInstance ∧ s.status.busy = true ∧ s.phase = .dec ∧ s.opened = true ∧
      s.lat.descriptor.n ≤ s.k + 1 ∧ ∃ b, resultFits s.params (decodeBits (s.buf ++ [b]) s.lat.descriptor) = false)

/-- R162, R170, R221: a whole `DEC`, from its `CTRL` write to its end, with a source that delivers. It consumes
exactly `N / 8` bytes and never more, and the results are `DecodeBits` of their bits, MSB-first; nothing else of the
machine has changed but what is named. The number of steps rests on log entries 2 and 3; that `BUF` keeps its value
after the end is log entry 12. -/
def Obligations.DecRunDecodesTheSource : Prop :=
  ∀ (s : State) (bytes : List Byte) (rest : List SrcAnswer) (d : Descriptor) (n : Number),
    s.status.busy = false → s.pend = .none → s.inputs = [.write 0x0 0x02] →
    d = (latchOperands false s).descriptor → checkFormat s.params d = none → bytes.length = d.n / 8 →
    s.source = bytes.map SrcAnswer.ok ++ rest → n = decodeBits (bitsOfBytes bytes) d →
    resultFits s.params n = true →
    runSteps (1 + d.n + d.n / 8) s = .next { s with
      inputs := [], source := rest, drawn := s.drawn ++ bytes
      status := { s.status with busy := false, done := true, err := 0, rfail := false }
      lat := latchOperands false s, phase := .idle, opened := false
      buf := bitsOfBytes bytes, k := d.n, rcur := bytes.getLastD 0x00, rmask := 0x00
      outKind := outKindOf n, outExp := outExpOf n, outMant := outMantOf n }

/-- R162, R170, under any schedule: when a `DEC` ends without error, the results are `DecodeBits` of the last
`N / 8` bytes the source has given up, under the latched descriptor. -/
def Obligations.DecEndsWithItsBytesDecoded : Prop :=
  ∀ s t : State, Inv s → s.phase = .dec → ¬ResetNext s → step s = .next t → t.status.busy = false →
    t.status.err = 0 → ∃ before bytes, t.drawn = before ++ bytes ∧ bytes.length = s.lat.descriptor.n / 8 ∧
      t.outKind = outKindOf (decodeBits (bitsOfBytes bytes) s.lat.descriptor) ∧
      t.outExp = outExpOf (decodeBits (bitsOfBytes bytes) s.lat.descriptor) ∧
      t.outMant = outMantOf (decodeBits (bitsOfBytes bytes) s.lat.descriptor) ∧
      t.rmask = 0x00 ∧ t.k = s.lat.descriptor.n

/-! ## Whole-machine rules -/

/-- R42, R43, R44, R46, R49: the invariant holds right after reset. That the latched operands are 0 then is log
entry 1. -/
def Obligations.InvariantAtReset : Prop := Inv State.reset

/-- R42, R43, R44, R46, R49: every step, from every state that meets the invariant, keeps it. -/
def Obligations.InvariantKeptByEveryStep : Prop :=
  ∀ s t : State, Inv s → step s = .next t → Inv t

/-- R42, R43: the legal adapter states alone are kept by every step, whatever the rest of the state. -/
def Obligations.AdapterStatesStayLegal : Prop :=
  ∀ s t : State, AdapterInv s → step s = .next t → AdapterInv t

/-- R32, R35 to R37: the reserved bits read 0 and the result registers hold a result, after every step. -/
def Obligations.ResultRegistersStayResults : Prop :=
  ∀ s t : State, ResultInv s → step s = .next t → ResultInv t

/-- R6, R41: every register holds a value of its own width after every step. -/
def Obligations.RegistersKeepTheirWidths : Prop :=
  ∀ s t : State, WidthInv s → step s = .next t → WidthInv t

/-- R6, R171, R173: an instance that meets the constraints of R6 (as `Params.wf` checks them) answers every step
with a next state, from every state that meets the invariant. The check is log entry 14. -/
def Obligations.LegalInstanceNeverStops : Prop :=
  ∀ s : State, s.params.wf = true → Inv s → ∃ t, step s = .next t

/-- R77, R89, R90: only a host write of `CTRL` that the decoder reads as a command starts one. -/
def Obligations.OnlyCtrlWritesStartCommands : Prop :=
  ∀ s t : State, step s = .next t → s.status.busy = false → t.status.busy = true →
    ∃ i, CommandNext s i ∧ i ≠ .sinit ∧ runningCommand t = some i

/-- R180: how a command ends. The step that clears `BUSY` sets `DONE` and enters `IDLE`, with code 0 or the code of
an error; on an error no result register, `RBIT` or operand register is written; and an idle block takes no step of
its own. -/
def Obligations.CommandsEndInOneStep : Prop :=
  (∀ s t : State, Inv s → s.status.busy = true → ¬ResetNext s → step s = .next t → t.status.busy = false →
    t.status.done = true ∧ t.phase = .idle ∧ t.pend = .none ∧
    (t.status.err = 0 ∨ ∃ e, t.status.err = errorCode e ∧ e ≠ .illegalCommand) ∧
    (t.status.err ≠ 0 → t.outKind = s.outKind ∧ t.outExp = s.outExp ∧ t.outMant = s.outMant ∧
      t.status.rbit = s.status.rbit ∧ t.fmtE = s.fmtE ∧ t.fmtM = s.fmtM ∧ t.fmtBias = s.fmtBias ∧
      t.inKind = s.inKind ∧ t.inExp = s.inExp ∧ t.inMant = s.inMant)) ∧
  (∀ (s : State) (rest : List Input), s.status.busy = false → s.inputs = .block :: rest →
    step s = .next { s with inputs := rest }) ∧
  (∀ s : State, s.status.busy = false → s.inputs = [] → step s = .next s)

/-- R28: the sticky failure flags. `RFAIL` (`WFAIL`) is set only by a failed transaction on that adapter's port, and
a failed one sets it; it is cleared only by reset, by `SINIT` and by the re-initialisation that begins a `DEC` (an
`ENC`); while it is set, an `RDB` (a `WRB`) raises `IOFailure` without a transaction. Both are 0 at reset. -/
def Obligations.FailureFlagsAreSticky : Prop :=
  State.reset.status.rfail = false ∧ State.reset.status.wfail = false ∧
  (∀ s t : State, step s = .next t → s.status.rfail = false → t.status.rfail = true →
    s.pend = .src ∧ ∃ rest, s.source = .fail :: rest) ∧
  (∀ s t : State, step s = .next t → s.status.wfail = false → t.status.wfail = true →
    (∃ b, s.pend = .snk b) ∧ ∃ rest, s.sink = .fail :: rest) ∧
  (∀ s t : State, step s = .next t → s.status.rfail = true → t.status.rfail = false →
    ResetNext s ∨ (CommandNext s .sinit ∧ s.status.busy = false) ∨
      (s.status.busy = true ∧ s.phase = .dec ∧ s.opened = false ∧ t.opened = true)) ∧
  (∀ s t : State, step s = .next t → s.status.wfail = true → t.status.wfail = false →
    ResetNext s ∨ (CommandNext s .sinit ∧ s.status.busy = false) ∨
      (s.status.busy = true ∧ s.phase = .enc ∧ s.opened = false ∧ t.opened = true)) ∧
  (∀ (s : State) (i : Instr) (rest : List SrcAnswer), Inv s → s.status.busy = true → runningCommand s = some i →
    s.pend = .src → s.source = .fail :: rest → ∃ t, exec i s = .next t ∧ t.status.rfail = true) ∧
  (∀ (s : State) (i : Instr) (b : Byte) (rest : List SnkAnswer), Inv s → s.status.busy = true →
    runningCommand s = some i → s.pend = .snk b → s.sink = .fail :: rest →
    ∃ t, exec i s = .next t ∧ t.status.wfail = true) ∧
  (∀ s : State, s.status.busy = true → s.phase = .rdb → s.pend = .none → s.status.rfail = true →
    ∃ t, exec .rdb s = .next t ∧ t.status.err = 3 ∧ t.status.rfail = true ∧ t.pend = .none ∧
      t.source = s.source ∧ t.drawn = s.drawn) ∧
  (∀ (s : State) (w : Bool), s.status.busy = true → s.phase = .wrb → s.pend = .none → s.status.wfail = true →
    ∃ t, exec (.wrb w) s = .next t ∧ t.status.err = 3 ∧ t.status.wfail = true ∧ t.pend = .none ∧
      t.sink = s.sink ∧ t.sunk = s.sunk)

/-- R27, R35 to R37: `RBIT` changes only when an `RDB` ends without error, and `OUT_*` only when a `DEC` ends without
error, or at reset. -/
def Obligations.ResultsHaveOneWriter : Prop :=
  ∀ s t : State, step s = .next t → ¬ResetNext s →
    (t.status.rbit ≠ s.status.rbit →
      s.status.busy = true ∧ s.phase = .rdb ∧ t.status.done = true ∧ t.status.err = 0) ∧
    ((t.outKind ≠ s.outKind ∨ t.outExp ≠ s.outExp ∨ t.outMant ≠ s.outMant) →
      s.status.busy = true ∧ s.phase = .dec ∧ t.status.done = true ∧ t.status.err = 0)

/-- R67, R69, R71: what can happen on the ports. A step without reset leaves the sink's bytes or adds the one byte
that was pending, in `ENC` or `WRB` only; it leaves the source's bytes or adds the one byte the source answered, in
`DEC` or `RDB` only; nothing sent or consumed is ever undone. -/
def Obligations.PortsMoveOneByteAtATime : Prop :=
  ∀ s t : State, step s = .next t → ¬ResetNext s →
    (t.sunk = s.sunk ∨ ((s.phase = .enc ∨ s.phase = .wrb) ∧
      ∃ b rest, s.pend = .snk b ∧ s.sink = .ok :: rest ∧ t.sunk = s.sunk ++ [b] ∧ t.sink = rest)) ∧
    (t.drawn = s.drawn ∨ ((s.phase = .dec ∨ s.phase = .rdb) ∧
      ∃ b rest, s.pend = .src ∧ s.source = .ok b :: rest ∧ t.drawn = s.drawn ++ [b] ∧ t.source = rest))

/-- R46: `K` advances by exactly 1 per completed bit, only in `ENC` and `DEC`, never passes `N`, and only a set-up
sends it back. That `K` keeps its value after a command ends is log entry 12. -/
def Obligations.BitCounterAdvancesByOne : Prop :=
  ∀ s t : State, Inv s → step s = .next t → ¬ResetNext s → t.k ≠ s.k →
    (s.phase = .enc ∨ s.phase = .dec) ∧ t.k ≤ s.lat.descriptor.n ∧
    ((s.opened = true ∧ t.k = s.k + 1) ∨ (s.opened = false ∧ t.opened = true ∧ t.k ≤ 1))

/-- R200, R61, R62, R49: a transaction that is never answered blocks its command: whatever else the host does, short
of reset, `BUSY` stays 1 for ever, and the block's own move changes nothing. -/
def Obligations.UnansweredTransactionHangs : Prop :=
  (∀ s : State, Inv s → Unanswered s → s.inputs = [] → step s = .next s) ∧
  (∀ (n : Nat) (s t : State), Inv s → Unanswered s → (∀ c, Input.reset c ∉ s.inputs) →
    runSteps n s = .next t → t.status.busy = true ∧ t.pend = s.pend ∧ t.sunk = s.sunk ∧ t.drawn = s.drawn)

/-- R210: the reset input puts every piece of the block's state at its reset value and makes no transaction of its
own: nothing moves on the ports unless the collaborator carries a pending transaction out (R211). The latched
operands, which R210 leaves unspecified, are not named. -/
def Obligations.ResetInputResetsTheBlock : Prop :=
  ∀ (s : State) (c : Bool) (rest : List Input), s.inputs = .reset c :: rest → ∃ t, step s = .next t ∧
    statusWord t.status = 0x00 ∧ t.fmtE = 0 ∧ t.fmtM = 0 ∧ t.fmtBias = 0 ∧ t.inKind = 0x00 ∧ t.inExp = 0 ∧
    t.inMant = 0 ∧ t.outKind = 0x00 ∧ t.outExp = 0 ∧ t.outMant = 0 ∧ t.rcur = 0x00 ∧ t.rmask = 0x00 ∧
    t.wacc = 0x00 ∧ t.wmask = 0x80 ∧ t.phase = .idle ∧ t.k = 0 ∧ t.buf = [] ∧ t.pend = .none ∧
    readRegister t 0x0 = 0 ∧ t.params = s.params ∧ t.inputs = rest ∧ t.seen = s.seen ∧
    (c = false ∨ s.pend = .none → t.source = s.source ∧ t.sink = s.sink ∧ t.drawn = s.drawn ∧ t.sunk = s.sunk)

/-- R210, R212: the state right after reset, as the host reads it. -/
def Obligations.ResetValuesAsRead : Prop :=
  (∀ r : RegNo, r ≠ 0xC → readRegister State.reset r = 0) ∧ readRegister State.reset 0xC = 0x8000 ∧
  State.reset.phase = .idle ∧ State.reset.k = 0 ∧ State.reset.buf = [] ∧ State.reset.pend = .none

/-- R211: reset during a command. No end of the command is reported, bytes already moved stay moved, and the
collaborator decides whether the pending byte moved too. That the choice is part of the move is log entry 8. -/
def Obligations.ResetAbandonsTheCommand : Prop :=
  ∀ (s t : State) (c : Bool) (rest : List Input), s.inputs = .reset c :: rest → step s = .next t →
    statusWord t.status = 0x00 ∧ t.phase = .idle ∧ t.pend = .none ∧
    (t.sunk = s.sunk ∨ ∃ b, s.pend = .snk b ∧ t.sunk = s.sunk ++ [b]) ∧
    (t.drawn = s.drawn ∨ ∃ b more, s.pend = .src ∧ s.source = .ok b :: more ∧ t.drawn = s.drawn ++ [b])

/-! ## The host's registers -/

/-- R41, R40: host access to the registers. A write of a read-only register or a reserved number changes nothing; a
write of a read/write register takes effect at once, whatever `BUSY` is, keeps the low bits the register has, and
changes no other register and nothing of the sequencer; a read returns the current value and changes no register.
(A negative value for an unbounded `IN_MANT` is left out: there the spec states no result, log entry 5.) -/
def Obligations.RegisterAccess : Prop :=
  (∀ (s : State) (r : RegNo) (v : Int) (rest : List Input), s.inputs = .write r v :: rest →
    (r = 0x1 ∨ 0x8 ≤ r.toNat → step s = .next { s with inputs := rest }) ∧
    (r = 0x2 → ∃ t, step s = .next t ∧ t = { s with inputs := rest, fmtE := t.fmtE } ∧
      readRegister t 0x2 = v % 2 ^ 32) ∧
    (r = 0x3 → ∃ t, step s = .next t ∧ t = { s with inputs := rest, fmtM := t.fmtM } ∧
      readRegister t 0x3 = v % 2 ^ 32) ∧
    (r = 0x4 → ∃ t, step s = .next t ∧ t = { s with inputs := rest, fmtBias := t.fmtBias } ∧
      (s.params.biasW = none → readRegister t 0x4 = v) ∧
      (∀ w, s.params.biasW = some w → 1 ≤ w → (2 : Int) ^ w ∣ readRegister t 0x4 - v ∧
        -(2 ^ (w - 1)) ≤ readRegister t 0x4 ∧ readRegister t 0x4 < 2 ^ (w - 1))) ∧
    (r = 0x5 → ∃ t, step s = .next t ∧ t = { s with inputs := rest, inKind := t.inKind } ∧
      readRegister t 0x5 = v % 8) ∧
    (r = 0x6 → ∃ t, step s = .next t ∧ t = { s with inputs := rest, inExp := t.inExp } ∧
      (s.params.expW = none → readRegister t 0x6 = v) ∧
      (∀ w, s.params.expW = some w → 1 ≤ w → (2 : Int) ^ w ∣ readRegister t 0x6 - v ∧
        -(2 ^ (w - 1)) ≤ readRegister t 0x6 ∧ readRegister t 0x6 < 2 ^ (w - 1))) ∧
    (r = 0x7 → (∀ w, s.params.mantW = some w → ∃ t, step s = .next t ∧
        t = { s with inputs := rest, inMant := t.inMant } ∧ readRegister t 0x7 = v % 2 ^ w) ∧
      (s.params.mantW = none → 0 ≤ v → ∃ t, step s = .next t ∧
        t = { s with inputs := rest, inMant := t.inMant } ∧ readRegister t 0x7 = v))) ∧
  (∀ (s : State) (r : RegNo) (rest : List Input), s.inputs = .read r :: rest →
    step s = .next { s with inputs := rest, seen := s.seen ++ [(r, readRegister s r)] })

/-- The model's choice where the spec states no result (log entry 5; R34): a negative value written to an unbounded
`IN_MANT` leaves a free value there and changes nothing else, and the machine goes on, whatever that value is. -/
def Obligations.NegativeMantissaIsFree : Prop :=
  ∀ (s : State) (v : Int) (rest : List Input), s.inputs = .write 0x7 v :: rest → s.params.mantW = none → v < 0 →
    ∃ n : Nat, step s = .next { s with inputs := rest, inMant := n, draws := s.draws + 1 }

/-- R40: register numbers 0xD, 0xE and 0xF read 0 and ignore writes. -/
def Obligations.ReservedRegisters : Prop :=
  ∀ (s : State) (r : RegNo) (v : Int) (rest : List Input), 0xD ≤ r.toNat →
    readRegister s r = 0 ∧ (s.inputs = .write r v :: rest → step s = .next { s with inputs := rest })

/-- R22, R23, R29 to R39: what a host reads from every named register, in every state: 0 from `CTRL`, the fields of
the words of `STATUS`, `RD_STATE` and `WR_STATE`, and the value of every operand and result register. -/
def Obligations.StatusAndAdapterWords : Prop :=
  ∀ s : State,
    (statusWord s.status).getLsbD 0 = s.status.busy ∧ (statusWord s.status).getLsbD 1 = s.status.done ∧
    (statusWord s.status).extractLsb' 2 3 = s.status.err ∧ (statusWord s.status).getLsbD 5 = s.status.rbit ∧
    (statusWord s.status).getLsbD 6 = s.status.rfail ∧ (statusWord s.status).getLsbD 7 = s.status.wfail ∧
    (rdStateWord s).extractLsb' 0 8 = s.rcur ∧ (rdStateWord s).extractLsb' 8 8 = s.rmask ∧
    (wrStateWord s).extractLsb' 0 8 = s.wacc ∧ (wrStateWord s).extractLsb' 8 8 = s.wmask ∧
    readRegister s 0x0 = 0 ∧ readRegister s 0x2 = s.fmtE.toNat ∧ readRegister s 0x3 = s.fmtM.toNat ∧
    readRegister s 0x4 = s.fmtBias ∧ readRegister s 0x5 = s.inKind.toNat ∧ readRegister s 0x6 = s.inExp ∧
    readRegister s 0x7 = s.inMant ∧ readRegister s 0x8 = s.outKind.toNat ∧ readRegister s 0x9 = s.outExp ∧
    readRegister s 0xA = s.outMant ∧
    readRegister s 0x1 = (statusWord s.status).toNat ∧ readRegister s 0xB = (rdStateWord s).toNat ∧
    readRegister s 0xC = (wrStateWord s).toNat

/-! ## Frames -/

/-- The frame of the reading commands, `RDB` and `DEC`, over every step of theirs: the operand registers, the writer,
the sink and what it has taken, `WFAIL`, the parameters, and what the host has read are unchanged; `RDB` changes
neither `K`, `BUF` nor a result register, `DEC` does not change `RBIT`, and a latched operand changes only at
acceptance. -/
def Obligations.ReadingCommandsFrame : Prop :=
  ∀ (s t : State) (i : Instr), (i = .rdb ∨ i = .dec) → exec i s = .next t →
    t.params = s.params ∧ t.fmtE = s.fmtE ∧ t.fmtM = s.fmtM ∧ t.fmtBias = s.fmtBias ∧ t.inKind = s.inKind ∧
    t.inExp = s.inExp ∧ t.inMant = s.inMant ∧ t.wacc = s.wacc ∧ t.wmask = s.wmask ∧
    t.status.wfail = s.status.wfail ∧ t.sink = s.sink ∧ t.sunk = s.sunk ∧ t.inputs = s.inputs ∧
    t.seen = s.seen ∧ t.draws = s.draws ∧
    (s.status.busy = true → t.lat = s.lat) ∧
    (i = .rdb → t.k = s.k ∧ t.buf = s.buf ∧ t.outKind = s.outKind ∧ t.outExp = s.outExp ∧
      t.outMant = s.outMant) ∧
    (i = .dec → t.status.rbit = s.status.rbit)

/-- The frame of the writing commands, `WRB` and `ENC`, over every step of theirs: the operand registers, the result
registers, `RBIT`, the reader, the source and what it has given up, `RFAIL`, the parameters, and what the host has
read are unchanged; `WRB` changes neither `K` nor `BUF`, and a latched operand changes only at acceptance. -/
def Obligations.WritingCommandsFrame : Prop :=
  ∀ (s t : State) (i : Instr), (i = .enc ∨ ∃ w, i = .wrb w) → exec i s = .next t →
    t.params = s.params ∧ t.fmtE = s.fmtE ∧ t.fmtM = s.fmtM ∧ t.fmtBias = s.fmtBias ∧ t.inKind = s.inKind ∧
    t.inExp = s.inExp ∧ t.inMant = s.inMant ∧ t.outKind = s.outKind ∧ t.outExp = s.outExp ∧
    t.outMant = s.outMant ∧ t.rcur = s.rcur ∧ t.rmask = s.rmask ∧ t.status.rfail = s.status.rfail ∧
    t.status.rbit = s.status.rbit ∧ t.source = s.source ∧ t.drawn = s.drawn ∧ t.inputs = s.inputs ∧
    t.seen = s.seen ∧ t.draws = s.draws ∧
    (s.status.busy = true → t.lat = s.lat) ∧
    (i ≠ .enc → t.k = s.k ∧ t.buf = s.buf)

/-- R6: no step changes the parameters of the instance. That they stand in the state is log entry 6. -/
def Obligations.ParametersAreFixed : Prop :=
  ∀ s t : State, step s = .next t → t.params = s.params

/-! ## The assembler syntax -/

/-- R95, R96: the operations a line of a host program stands for. -/
def Obligations.AssemblerExpansions : Prop :=
  asmMoves (.cmd .enc) = [.write 0x0 0x01] ∧ asmMoves (.cmd .dec) = [.write 0x0 0x02] ∧
  asmMoves (.cmd .rdb) = [.write 0x0 0x03] ∧ asmMoves (.cmd (.wrb false)) = [.write 0x0 0x04] ∧
  asmMoves (.cmd (.wrb true)) = [.write 0x0 0x14] ∧ asmMoves (.cmd .sinit) = [.write 0x0 0x05] ∧
  (∀ r v, asmMoves (.set r v) = [.write r.number v]) ∧ (∀ r, asmMoves (.get r) = [.read r.number]) ∧
  (∀ e m b, asmMoves (.ldfmt e m b) = asmMoves (.set .fmtE e) ++ asmMoves (.set .fmtM m) ++
    asmMoves (.set .fmtBias b)) ∧
  (∀ f, asmMoves (.ldfmtStd f) =
    asmMoves (.ldfmt (Config.standard f).e (Config.standard f).m (Config.standard f).bias)) ∧
  asmMoves (.ldnumSingleton .posZero) = [.write 0x5 0x00] ∧ asmMoves (.ldnumSingleton .negZero) = [.write 0x5 0x04] ∧
  asmMoves (.ldnumSingleton .posInf) = [.write 0x5 0x01] ∧ asmMoves (.ldnumSingleton .negInf) = [.write 0x5 0x05] ∧
  asmMoves (.ldnumSingleton .nan) = [.write 0x5 0x02] ∧
  (∀ (g : Bool) e m, asmMoves (.ldnum g e m) = asmMoves (.set .inKind (0x03 + 4 * g.toNat)) ++
    asmMoves (.set .inExp e) ++ asmMoves (.set .inMant m)) ∧
  asmMoves .encw = asmMoves (.cmd .enc) ++ asmMoves .wait ∧ asmMoves .decw = asmMoves (.cmd .dec) ++ asmMoves .wait
end

