-- ==== Sys2Proof/Laws/HostPort.lean ====
section
/-!
SUPPORT. What a host write of a register leaves (R41): every field but the operand registers and the counter of
free values, one lemma a field; and what each operand register gets.
-/
namespace Sys2Proof.Machine

@[simp] theorem writeMantissa_params (v : Int) (s : State) : (writeMantissa v s).params = s.params := by
  unfold writeMantissa; split <;> [rfl; (split <;> rfl)]

@[simp] theorem writeMantissa_status (v : Int) (s : State) : (writeMantissa v s).status = s.status := by
  unfold writeMantissa; split <;> [rfl; (split <;> rfl)]

@[simp] theorem writeMantissa_outKind (v : Int) (s : State) : (writeMantissa v s).outKind = s.outKind := by
  unfold writeMantissa; split <;> [rfl; (split <;> rfl)]

@[simp] theorem writeMantissa_outExp (v : Int) (s : State) : (writeMantissa v s).outExp = s.outExp := by
  unfold writeMantissa; split <;> [rfl; (split <;> rfl)]

@[simp] theorem writeMantissa_outMant (v : Int) (s : State) : (writeMantissa v s).outMant = s.outMant := by
  unfold writeMantissa; split <;> [rfl; (split <;> rfl)]

@[simp] theorem writeMantissa_rcur (v : Int) (s : State) : (writeMantissa v s).rcur = s.rcur := by
  unfold writeMantissa; split <;> [rfl; (split <;> rfl)]

@[simp] theorem writeMantissa_rmask (v : Int) (s : State) : (writeMantissa v s).rmask = s.rmask := by
  unfold writeMantissa; split <;> [rfl; (split <;> rfl)]

@[simp] theorem writeMantissa_wacc (v : Int) (s : State) : (writeMantissa v s).wacc = s.wacc := by
  unfold writeMantissa; split <;> [rfl; (split <;> rfl)]

@[simp] theorem writeMantissa_wmask (v : Int) (s : State) : (writeMantissa v s).wmask = s.wmask := by
  unfold writeMantissa; split <;> [rfl; (split <;> rfl)]

@[simp] theorem writeMantissa_phase (v : Int) (s : State) : (writeMantissa v s).phase = s.phase := by
  unfold writeMantissa; split <;> [rfl; (split <;> rfl)]

@[simp] theorem writeMantissa_lat (v : Int) (s : State) : (writeMantissa v s).lat = s.lat := by
  unfold writeMantissa; split <;> [rfl; (split <;> rfl)]

@[simp] theorem writeMantissa_k (v : Int) (s : State) : (writeMantissa v s).k = s.k := by
  unfold writeMantissa; split <;> [rfl; (split <;> rfl)]

@[simp] theorem writeMantissa_buf (v : Int) (s : State) : (writeMantissa v s).buf = s.buf := by
  unfold writeMantissa; split <;> [rfl; (split <;> rfl)]

@[simp] theorem writeMantissa_pend (v : Int) (s : State) : (writeMantissa v s).pend = s.pend := by
  unfold writeMantissa; split <;> [rfl; (split <;> rfl)]

@[simp] theorem writeMantissa_opened (v : Int) (s : State) : (writeMantissa v s).opened = s.opened := by
  unfold writeMantissa; split <;> [rfl; (split <;> rfl)]

@[simp] theorem writeMantissa_inputs (v : Int) (s : State) : (writeMantissa v s).inputs = s.inputs := by
  unfold writeMantissa; split <;> [rfl; (split <;> rfl)]

@[simp] theorem writeMantissa_source (v : Int) (s : State) : (writeMantissa v s).source = s.source := by
  unfold writeMantissa; split <;> [rfl; (split <;> rfl)]

@[simp] theorem writeMantissa_sink (v : Int) (s : State) : (writeMantissa v s).sink = s.sink := by
  unfold writeMantissa; split <;> [rfl; (split <;> rfl)]

@[simp] theorem writeMantissa_drawn (v : Int) (s : State) : (writeMantissa v s).drawn = s.drawn := by
  unfold writeMantissa; split <;> [rfl; (split <;> rfl)]

@[simp] theorem writeMantissa_sunk (v : Int) (s : State) : (writeMantissa v s).sunk = s.sunk := by
  unfold writeMantissa; split <;> [rfl; (split <;> rfl)]

@[simp] theorem writeMantissa_seen (v : Int) (s : State) : (writeMantissa v s).seen = s.seen := by
  unfold writeMantissa; split <;> [rfl; (split <;> rfl)]

@[simp] theorem writeRegister_params (r : RegNo) (v : Int) (s : State) :
    (writeRegister r v s).params = s.params := by
  unfold writeRegister; split <;> simp

@[simp] theorem writeRegister_status (r : RegNo) (v : Int) (s : State) :
    (writeRegister r v s).status = s.status := by
  unfold writeRegister; split <;> simp

@[simp] theorem writeRegister_outKind (r : RegNo) (v : Int) (s : State) :
    (writeRegister r v s).outKind = s.outKind := by
  unfold writeRegister; split <;> simp

@[simp] theorem writeRegister_outExp (r : RegNo) (v : Int) (s : State) :
    (writeRegister r v s).outExp = s.outExp := by
  unfold writeRegister; split <;> simp

@[simp] theorem writeRegister_outMant (r : RegNo) (v : Int) (s : State) :
    (writeRegister r v s).outMant = s.outMant := by
  unfold writeRegister; split <;> simp

@[simp] theorem writeRegister_rcur (r : RegNo) (v : Int) (s : State) :
    (writeRegister r v s).rcur = s.rcur := by
  unfold writeRegister; split <;> simp

@[simp] theorem writeRegister_rmask (r : RegNo) (v : Int) (s : State) :
    (writeRegister r v s).rmask = s.rmask := by
  unfold writeRegister; split <;> simp

@[simp] theorem writeRegister_wacc (r : RegNo) (v : Int) (s : State) :
    (writeRegister r v s).wacc = s.wacc := by
  unfold writeRegister; split <;> simp

@[simp] theorem writeRegister_wmask (r : RegNo) (v : Int) (s : State) :
    (writeRegister r v s).wmask = s.wmask := by
  unfold writeRegister; split <;> simp

@[simp] theorem writeRegister_phase (r : RegNo) (v : Int) (s : State) :
    (writeRegister r v s).phase = s.phase := by
  unfold writeRegister; split <;> simp

@[simp] theorem writeRegister_lat (r : RegNo) (v : Int) (s : State) :
    (writeRegister r v s).lat = s.lat := by
  unfold writeRegister; split <;> simp

@[simp] theorem writeRegister_k (r : RegNo) (v : Int) (s : State) :
    (writeRegister r v s).k = s.k := by
  unfold writeRegister; split <;> simp

@[simp] theorem writeRegister_buf (r : RegNo) (v : Int) (s : State) :
    (writeRegister r v s).buf = s.buf := by
  unfold writeRegister; split <;> simp

@[simp] theorem writeRegister_pend (r : RegNo) (v : Int) (s : State) :
    (writeRegister r v s).pend = s.pend := by
  unfold writeRegister; split <;> simp

@[simp] theorem writeRegister_opened (r : RegNo) (v : Int) (s : State) :
    (writeRegister r v s).opened = s.opened := by
  unfold writeRegister; split <;> simp

@[simp] theorem writeRegister_inputs (r : RegNo) (v : Int) (s : State) :
    (writeRegister r v s).inputs = s.inputs := by
  unfold writeRegister; split <;> simp

@[simp] theorem writeRegister_source (r : RegNo) (v : Int) (s : State) :
    (writeRegister r v s).source = s.source := by
  unfold writeRegister; split <;> simp

@[simp] theorem writeRegister_sink (r : RegNo) (v : Int) (s : State) :
    (writeRegister r v s).sink = s.sink := by
  unfold writeRegister; split <;> simp

@[simp] theorem writeRegister_drawn (r : RegNo) (v : Int) (s : State) :
    (writeRegister r v s).drawn = s.drawn := by
  unfold writeRegister; split <;> simp

@[simp] theorem writeRegister_sunk (r : RegNo) (v : Int) (s : State) :
    (writeRegister r v s).sunk = s.sunk := by
  unfold writeRegister; split <;> simp

@[simp] theorem writeRegister_seen (r : RegNo) (v : Int) (s : State) :
    (writeRegister r v s).seen = s.seen := by
  unfold writeRegister; split <;> simp

/-- R29 to R34, R40, R41: the seven things a host write of a register can be. -/
theorem writeRegister_cases (r : RegNo) (v : Int) (s : State) :
    (r = 0x2 ∧ writeRegister r v s = { s with fmtE := BitVec.ofInt 32 v }) ∨
    (r = 0x3 ∧ writeRegister r v s = { s with fmtM := BitVec.ofInt 32 v }) ∨
    (r = 0x4 ∧ writeRegister r v s = { s with fmtBias := keepSigned s.params.biasW v }) ∨
    (r = 0x5 ∧ writeRegister r v s = { s with inKind := keepKind (BitVec.ofInt 8 v) }) ∨
    (r = 0x6 ∧ writeRegister r v s = { s with inExp := keepSigned s.params.expW v }) ∨
    (r = 0x7 ∧ writeRegister r v s = writeMantissa v s) ∨
    ((r.toNat < 2 ∨ 8 ≤ r.toNat) ∧ writeRegister r v s = s) := by
  have h : r = 0x0 ∨ r = 0x1 ∨ r = 0x2 ∨ r = 0x3 ∨ r = 0x4 ∨ r = 0x5 ∨ r = 0x6 ∨ r = 0x7 ∨ r = 0x8 ∨ r = 0x9 ∨
      r = 0xA ∨ r = 0xB ∨ r = 0xC ∨ r = 0xD ∨ r = 0xE ∨ r = 0xF := by
    revert r; decide
  rcases h with rfl | rfl | rfl | rfl | rfl | rfl | rfl | rfl | rfl | rfl | rfl | rfl | rfl | rfl | rfl | rfl
  case inr.inr.inl => exact .inl ⟨rfl, rfl⟩
  case inr.inr.inr.inl => exact .inr (.inl ⟨rfl, rfl⟩)
  case inr.inr.inr.inr.inl => exact .inr (.inr (.inl ⟨rfl, rfl⟩))
  case inr.inr.inr.inr.inr.inl => exact .inr (.inr (.inr (.inl ⟨rfl, rfl⟩)))
  case inr.inr.inr.inr.inr.inr.inl => exact .inr (.inr (.inr (.inr (.inl ⟨rfl, rfl⟩))))
  case inr.inr.inr.inr.inr.inr.inr.inl => exact .inr (.inr (.inr (.inr (.inr (.inl ⟨rfl, rfl⟩)))))
  all_goals exact .inr (.inr (.inr (.inr (.inr (.inr ⟨by decide, rfl⟩)))))

/-- R34, R41: the three things a host write of `IN_MANT` can be. -/
theorem writeMantissa_cases (v : Int) (s : State) :
    (∃ w, s.params.mantW = some w ∧ writeMantissa v s = { s with inMant := keepUnsigned w v }) ∨
    (s.params.mantW = none ∧ 0 ≤ v ∧ writeMantissa v s = { s with inMant := v.toNat }) ∨
    (s.params.mantW = none ∧ v < 0 ∧
      writeMantissa v s = { s with inMant := Config.freeMantissa s.draws, draws := s.draws + 1 }) := by
  unfold writeMantissa
  split
  · rename_i w h
    exact .inl ⟨w, h, rfl⟩
  · rename_i h
    split
    · rename_i hv
      exact .inr (.inr ⟨h, hv, rfl⟩)
    · rename_i hv
      exact .inr (.inl ⟨h, by omega, rfl⟩)

end Sys2Proof.Machine
end

