-- ==== Sys2Proof/Laws/PerInstr.lean ====
section
/-!
SUPPORT. Statements about every command, one lemma per constructor of `Instr`.
-/
namespace Sys2Proof.Laws

/-- R89, R90: decoding the word of a command gives the command back. -/
def DecodeEncode.Statement (i : Instr) : Prop := decode (encode i) = .ok i

theorem DecodeEncode.enc : DecodeEncode.Statement .enc := rfl

theorem DecodeEncode.dec : DecodeEncode.Statement .dec := rfl

theorem DecodeEncode.rdb : DecodeEncode.Statement .rdb := rfl

theorem DecodeEncode.wrb (w : Bool) : DecodeEncode.Statement (.wrb w) := by cases w <;> rfl

theorem DecodeEncode.sinit : DecodeEncode.Statement .sinit := rfl

end Sys2Proof.Laws
end

