-- ==== Sys2Proof/Machine/Assembler.lean ====
section
/-!
DEFINITION. The text form of a host program (R94 to R96): one operation per line, `;` starting a comment, numbers
decimal or hexadecimal with `0x`, a minus sign before a negative one. Text is a list of characters.
-/
namespace Sys2Proof.Machine

/-- Why a line of text is no operation of the assembler syntax. -/
inductive AsmReject where
  | unknownOperation
  | badOperands
  deriving DecidableEq, Repr

/-- The value of a decimal digit. -/
def decimalDigit (c : Char) : Option Nat :=
  if '0' ≤ c ∧ c ≤ '9' then some (c.toNat - '0'.toNat) else none

/-- The value of a hexadecimal digit, in either case. -/
def hexDigit (c : Char) : Option Nat :=
  if 'a' ≤ c ∧ c ≤ 'f' then some (c.toNat - 'a'.toNat + 10)
  else if 'A' ≤ c ∧ c ≤ 'F' then some (c.toNat - 'A'.toNat + 10)
  else decimalDigit c

/-- The value of digits in a base, continuing from `acc`. -/
def digitsFrom (base : Nat) (digit : Char → Option Nat) : Nat → List Char → Option Nat
  | acc, []      => some acc
  | acc, c :: cs =>
    match digit c with
    | none   => none
    | some v => digitsFrom base digit (base * acc + v) cs

/-- A number without sign (R95). -/
def parseNat : List Char → Option Nat
  | []                   => none
  | ['0', 'x']           => none
  | '0' :: 'x' :: digits => digitsFrom 16 hexDigit 0 digits
  | digits               => digitsFrom 10 decimalDigit 0 digits

/-- A number (R95): "Numbers are decimal, or hexadecimal with `0x`; negative values are written with `-`." -/
def parseNumber : List Char → Option Int
  | '-' :: cs => (parseNat cs).map (fun n => -(n : Int))
  | cs        => (parseNat cs).map (fun n => (n : Int))

/-- A register by its name (R94). -/
def parseReg (w : List Char) : Option Reg :=
  if w = "CTRL".toList then some .ctrl
  else if w = "STATUS".toList then some .status
  else if w = "FMT_E".toList then some .fmtE
  else if w = "FMT_M".toList then some .fmtM
  else if w = "FMT_BIAS".toList then some .fmtBias
  else if w = "IN_KIND".toList then some .inKind
  else if w = "IN_EXP".toList then some .inExp
  else if w = "IN_MANT".toList then some .inMant
  else if w = "OUT_KIND".toList then some .outKind
  else if w = "OUT_EXP".toList then some .outExp
  else if w = "OUT_MANT".toList then some .outMant
  else if w = "RD_STATE".toList then some .rdState
  else if w = "WR_STATE".toList then some .wrState
  else none

/-- A standard descriptor by its name (R86, R96). -/
def parseFormat (w : List Char) : Option StdFormat :=
  if w = "Half".toList then some .half
  else if w = "Single".toList then some .single
  else if w = "Double".toList then some .double
  else if w = "Quadruple".toList then some .quadruple
  else none

/-- A singleton operand of `LDNUM` (R96). -/
def parseSingleton (w : List Char) : Option Singleton :=
  if w = "+0".toList then some .posZero
  else if w = "-0".toList then some .negZero
  else if w = "+inf".toList then some .posInf
  else if w = "-inf".toList then some .negInf
  else if w = "nan".toList then some .nan
  else none

/-- A bit, the operand of `WRB` and the sign of `LDNUM`. -/
def parseBit (w : List Char) : Option Bool :=
  match parseNat w with
  | some 0 => some false
  | some 1 => some true
  | _      => none

/-- The pieces of a text between the characters that `sep` picks out. -/
def piecesAt (sep : Char → Bool) : List Char → List (List Char)
  | []      => [[]]
  | c :: cs =>
    if sep c then [] :: piecesAt sep cs
    else
      match piecesAt sep cs with
      | []      => [[c]]
      | p :: ps => (c :: p) :: ps

/-- A blank. -/
def isBlank (c : Char) : Bool := c = ' ' ∨ c = '\t' ∨ c = '\r'

/-- A text without the blanks at its two ends. -/
def trimBlanks (cs : List Char) : List Char :=
  ((cs.dropWhile isBlank).reverse.dropWhile isBlank).reverse

/-- The operands of an operation, separated by commas. -/
def operandTexts (cs : List Char) : List (List Char) :=
  if trimBlanks cs = [] then [] else (piecesAt (· = ',') cs).map trimBlanks

/-- The operation that a name and operands stand for (R95, R96). -/
def parseOperation (name : List Char) (ops : List (List Char)) : Except AsmReject AsmLine :=
  let whole (l : Option AsmLine) : Except AsmReject AsmLine :=
    match l with
    | some x => .ok x
    | none   => .error .badOperands
  let bare (l : AsmLine) : Except AsmReject AsmLine := if ops = [] then .ok l else .error .badOperands
  if name = "ENC".toList then bare (.cmd .enc)
  else if name = "DEC".toList then bare (.cmd .dec)
  else if name = "RDB".toList then bare (.cmd .rdb)
  else if name = "SINIT".toList then bare (.cmd .sinit)
  else if name = "WAIT".toList then bare .wait
  else if name = "ENCW".toList then bare .encw
  else if name = "DECW".toList then bare .decw
  else if name = "WRB".toList then
    whole (match ops with
      | [w] => (parseBit w).map (fun b => .cmd (.wrb b))
      | _   => none)
  else if name = "SET".toList then
    whole (match ops with
      | [r, v] => (parseReg r).bind (fun r => (parseNumber v).map (fun v => .set r v))
      | _      => none)
  else if name = "GET".toList then
    whole (match ops with
      | [r] => (parseReg r).map .get
      | _   => none)
  else if name = "LDFMT".toList then
    whole (match ops with
      | [f]       => (parseFormat f).map .ldfmtStd
      | [e, m, b] =>
        (parseNat e).bind (fun e => (parseNat m).bind (fun m => (parseNumber b).map (fun b => .ldfmt e m b)))
      | _         => none)
  else if name = "LDNUM".toList then
    whole (match ops with
      | [n]       => (parseSingleton n).map .ldnumSingleton
      | [g, e, m] =>
        (parseBit g).bind (fun g => (parseNumber e).bind (fun e => (parseNat m).map (fun m => .ldnum g e m)))
      | _         => none)
  else .error .unknownOperation

/-- One line of text (R95): nothing for a line that is blank or holds only a comment. -/
def parseLine (text : List Char) : Except AsmReject (Option AsmLine) :=
  let code := trimBlanks (text.takeWhile (· ≠ ';'))
  if code = [] then .ok none
  else (parseOperation (code.takeWhile (fun c => !isBlank c))
    (operandTexts (code.dropWhile (fun c => !isBlank c)))).map some

/-- The lines of a program, up to the first that is refused. -/
def parseLines : List (List Char) → Except AsmReject (List AsmLine)
  | []      => .ok []
  | l :: ls =>
    match parseLine l with
    | .error e => .error e
    | .ok none => parseLines ls
    | .ok (some x) =>
      match parseLines ls with
      | .error e => .error e
      | .ok xs   => .ok (x :: xs)

/-- A host program from its text (R95). -/
def parseProgram (text : List Char) : Except AsmReject (List AsmLine) := parseLines (piecesAt (· = '\n') text)

end Sys2Proof.Machine
end

