-- ==== Sys2Proof/Tests/Slice0.lean ====
section
/-!
SUPPORT. The model's own tests. Expected values come from the spec: the opcode map of R90 and the vectors of
95_test_vectors.md, named in each docstring. The second half holds, for every obligation with hypotheses, a
concrete state and operands that meet them.
-/
namespace Sys2Proof.Machine.Tests

/-- The next state of an outcome, if there is one. -/
def after : Out → Option State
  | .next t    => some t
  | .fault _   => none
  | .refused _ => none

/-! ## Decoding and well-formedness -/

/-- R90: `0000 0001`. -/
theorem test_decode_enc : decode 0b00000001 = .ok .enc := by decide

/-- R90: `0000 0010`. -/
theorem test_decode_dec : decode 0b00000010 = .ok .dec := by decide

/-- R90: `0000 0011`. -/
theorem test_decode_rdb : decode 0b00000011 = .ok .rdb := by decide

/-- R90: `000w 0100`. -/
theorem test_decode_wrb : decode 0b00000100 = .ok (.wrb false) ∧ decode 0b00010100 = .ok (.wrb true) := by decide

/-- R90: `0000 0101`. -/
theorem test_decode_sinit : decode 0b00000101 = .ok .sinit := by decide

/-- XV1: one word of each kind that R91 refuses. -/
theorem test_decode_illegal :
    decode 0x00 = .error .unassignedOp ∧ decode 0x06 = .error .unassignedOp ∧ decode 0x0F = .error .unassignedOp ∧
    decode 0x10 = .error .wbitWithoutWrb ∧ decode 0x15 = .error .wbitWithoutWrb ∧
    decode 0x24 = .error .reservedBits ∧ decode 0x84 = .error .reservedBits := by decide

/-- The opcode table's match and mask columns, row by row, against the decoder on all 256 bytes. -/
theorem test_decode_is_the_table : ∀ v : Byte,
    (decode v).toOption =
      if v &&& 0xFF = 0x01 then some .enc else if v &&& 0xFF = 0x02 then some .dec
      else if v &&& 0xFF = 0x03 then some .rdb else if v &&& 0xEF = 0x04 then some (.wrb (v.getLsbD 4))
      else if v &&& 0xFF = 0x05 then some .sinit else none := by decide

/-- Ill-formed lines of a host program, one for each check of `AsmLine.wf`. -/
theorem test_asm_ill_formed :
    (AsmLine.set .ctrl 256).wf = false ∧ (AsmLine.set .inKind (-1)).wf = false ∧
    (AsmLine.set .fmtE (2 ^ 32)).wf = false ∧ (AsmLine.set .fmtM (-1)).wf = false ∧
    (AsmLine.set .inMant (-1)).wf = false ∧ (AsmLine.set .status 0).wf = false ∧
    (AsmLine.set .outKind 0).wf = false ∧ (AsmLine.set .outExp 0).wf = false ∧
    (AsmLine.set .outMant 0).wf = false ∧ (AsmLine.set .rdState 0).wf = false ∧
    (AsmLine.set .wrState 0).wf = false ∧ (AsmLine.ldfmt (2 ^ 32) 0 0).wf = false ∧
    (AsmLine.ldfmt 0 (2 ^ 32) 0).wf = false := by decide

/-- Ill-formed instances, one for each constraint of R6. -/
theorem test_params_ill_formed :
    ({ Config.reference with eMax := 2 ^ 32 } : Params).wf = false ∧
    ({ Config.reference with mMax := 2 ^ 32 } : Params).wf = false ∧
    ({ Config.reference with biasW := some 0 } : Params).wf = false ∧
    ({ Config.reference with mantW := some 23, mMax := 23 } : Params).wf = false ∧
    ({ Config.reference with expW := some 64 } : Params).wf = false ∧
    ({ eMax := 5, mMax := 10, biasW := some 6, expW := some 6, mantW := some 11 } : Params).wf = false := by decide

/-- Well-formed instances: the reference model, and one with finite registers. -/
theorem test_params_well_formed :
    Config.reference.wf = true ∧
    ({ eMax := 5, mMax := 10, biasW := some 6, expW := some 7, mantW := some 11 } : Params).wf = true := by decide

/-- Every term of `Instr` is well-formed: R89 leaves a command no operand with an illegal value. -/
theorem test_instr_wf : ∀ i : Instr, i.wf = true := by intro i; cases i <;> rfl

/-! ## The codec on the spec's vectors -/

/-- E1, E4, E6: `Double` 1.0, the smallest subnormal, and a truncated subnormal. -/
theorem test_encode_double :
    (encodeBits (.finite false 0 1) (Config.standard .double)).map ofBits = some 0x3FF0000000000000 ∧
    (encodeBits (.finite false (-1074) 1) (Config.standard .double)).map ofBits = some 1 ∧
    (encodeBits (.finite true (-1075) 3) (Config.standard .double)).map ofBits = some 0x8000000000000001 := by decide

/-- E9, E10, E11, E15, E16 and the sign of a flushed value (Q2). -/
theorem test_encode_half :
    (encodeBits (.finite false 5 2047) (Config.standard .half)).map ofBits = some 0x7BFF ∧
    encodeBits (.finite false 16 1) (Config.standard .half) = none ∧
    (encodeBits (.finite false 4 4095) (Config.standard .half)).map ofBits = some 0x7BFF ∧
    (encodeBits (.finite false (-25) 1) (Config.standard .half)).map ofBits = some 0x0000 ∧
    (encodeBits (.finite true (-25) 3) (Config.standard .half)).map ofBits = some 0x8001 ∧
    (encodeBits (.finite true (-25) 1) (Config.standard .half)).map ofBits = some 0x8000 := by decide

/-- E35, E36, E38, E40: the degenerate widths and a negative bias. -/
theorem test_encode_degenerate :
    (encodeBits .nan ⟨7, 0, 63⟩).map ofBits = some 0x7F ∧
    (encodeBits (.finite false 0 3) ⟨7, 0, 63⟩).map ofBits = some 0x40 ∧
    (encodeBits (.finite false (-3) 1) ⟨0, 7, 0⟩).map ofBits = some 0x08 ∧
    (encodeBits (.finite false 0 1) ⟨4, 3, -2⟩).map ofBits = some 0x01 := by decide

/-- DV1, DV2, DV9, DV16: `DecodeBits` under `Double`. -/
theorem test_decode_double :
    decodeBits (bitsE 0x3FF0000000000000 64) (Config.standard .double) = .finite false 0 1 ∧
    decodeBits (bitsE 0x7FF0000000000001 64) (Config.standard .double) = .nan ∧
    decodeBits (bitsE 0x0000000000000001 64) (Config.standard .double) = .finite false (-1074) 1 ∧
    decodeBits (bitsE 0x3FB999999999999A 64) (Config.standard .double) =
      .finite false (-55) 3602879701896397 := by decide

/-- DV24, DV27, DV28 and DV45, DV48, DV49. -/
theorem test_decode_others :
    decodeBits (bitsE 0xFC00 16) (Config.standard .half) = .infinity true ∧
    decodeBits (bitsE 0xFE00 16) (Config.standard .half) = .nan ∧
    decodeBits (bitsE 0xC100 16) (Config.standard .half) = .finite true (-1) 5 ∧
    decodeBits (bitsE 0x40 8) ⟨7, 0, 63⟩ = .finite false 1 1 ∧
    decodeBits (bitsE 0x80 8) ⟨0, 7, 0⟩ = .infinity true ∧
    decodeBits (bitsE 0x01 8) ⟨0, 7, 0⟩ = .nan := by decide

/-! ## Small states -/

/-- A state in which a command runs. -/
def running (ph : Phase) : State :=
  { State.reset with status := { Status.atReset with busy := true }, phase := ph }

/-- Latched operands: descriptor `(4, 3, 7)` and the number 13 (vector E29). -/
def lat13 : Latched :=
  { e := 4, m := 3, bias := 7, tag := 3, sign := false, exp := 0, mant := 13, wbit := true }

/-- An accepted `ENC` of 13 under `(4, 3, 7)`, before its first step. -/
def encAccepted : State := { running .enc with lat := lat13 }

/-- The same `ENC` with its only byte, 0x55, pending at a sink that will accept it. -/
def encSending : State :=
  { encAccepted with
    opened := true, buf := [false, true, false, true, false, true, false, true], k := 7
    pend := .snk 0x55, sink := [.ok] }

/-- An accepted `DEC` under `(4, 3, 7)`, before its first step. -/
def decAccepted : State := { running .dec with lat := lat13 }

/-- The same `DEC` waiting for its only byte. -/
def decWaiting : State := { decAccepted with opened := true, pend := .src }

/-- The same `DEC` with seven of the eight bits of 0x55 read. -/
def decLastBit : State :=
  { decAccepted with
    opened := true, buf := [false, true, false, true, false, true, false], k := 7
    rcur := 0x55, rmask := 0x01, drawn := [0x55] }

/-- An `RDB` waiting for a byte, with nothing in the source. -/
def rdbWaiting : State := { running .rdb with pend := .src }

/-- A `WRB` with 0xFF pending at the sink. -/
def wrbSending : State := { running .wrb with pend := .snk 0xFF }

/-! ## One step of each command -/

/-- R90: `ENC` at reset is accepted. -/
theorem test_enc_accepted : (after (step (State.reset.withFetchWord 8 0x01))).map (fun t => (t.status.busy, t.phase)) =
    some (true, .enc) := by decide

/-- E29: the last step of `ENC` sends 0x55 and ends without error. -/
theorem test_enc_completes : (after (step encSending)).map (fun t => (t.sunk, statusWord t.status, wrStateWord t)) =
    some ([0x55], 0x02, 0x8000) := by decide

/-- DV38: the last step of `DEC` of 0x55 under `(4, 3, 7)` gives 13. -/
theorem test_dec_completes :
    (after (step decLastBit)).map (fun t => (t.outKind, t.outExp, t.outMant, statusWord t.status)) =
      some (0x03, 0, 13, 0x02) := by decide

/-- XV2: `DEC` at the reset descriptor ends with `InvalidFormat`. -/
theorem test_dec_invalid_format : (after (step (running .dec))).map (fun t => statusWord t.status) = some 0x06 := by
  decide

/-- BV1, first line: the byte 0xA5 gives `RBIT = 1` and `RD_STATE = 0x40A5`. -/
theorem test_rdb_first_bit :
    (after (step { rdbWaiting with source := [.ok 0xA5] })).map (fun t => (statusWord t.status, rdStateWord t)) =
      some (0x22, 0x40A5) := by decide

/-- BV1, line 17: a failed fetch gives `STATUS = 0x4E` and leaves `RD_STATE` at 0x003C. -/
theorem test_rdb_fails :
    (after (step { rdbWaiting with rcur := 0x3C, source := [.fail] })).map
      (fun t => (statusWord t.status, rdStateWord t)) = some (0x4E, 0x003C) := by decide

/-- BV4: `WRB 1` after reset gives `WR_STATE = 0x4080`. -/
theorem test_wrb_stores : (after (step { running .wrb with lat := lat13 })).map wrStateWord = some 0x4080 := by decide

/-- BV3: a refused byte gives `STATUS = 0x8E` and `WR_STATE = 0x8000`. -/
theorem test_wrb_refused :
    (after (step { wrbSending with sink := [.fail] })).map (fun t => (statusWord t.status, wrStateWord t, t.sunk)) =
      some (0x8E, 0x8000, []) := by decide

/-- BV1, last line: `SINIT` after a failed `RDB` gives `STATUS = 0x02` and `RD_STATE = 0x0000`. -/
theorem test_sinit :
    (after (step ({ State.reset with
      status := { Status.atReset with done := true, err := 3, rfail := true }, rcur := 0x3C }.withFetchWord 8 5))).map
      (fun t => (statusWord t.status, rdStateWord t)) = some (0x02, 0x0000) := by decide

/-- XV1: after `STATUS = 0x8E` an illegal command gives 0x9A. -/
theorem test_illegal_command :
    (after (step ({ State.reset with
      status := { Status.atReset with done := true, err := 3, wfail := true } }.withFetchWord 8 0x24))).map
      (fun t => statusWord t.status) = some 0x9A := by decide

/-- XV4: a valid descriptor beyond `E_MAX` gives `STATUS = 0x16`. -/
theorem test_format_unsupported :
    (after (step { running .enc with
      params := { Config.reference with eMax := 15, mMax := 112 }
      lat := { lat13 with e := 16, m := 111, bias := 32767 } })).map (fun t => statusWord t.status) = some 0x16 := by
  decide

/-- XV3: mantissa 0 under Half gives `InvalidOperand`, whatever the exponent. -/
theorem test_invalid_operand :
    (after (step { running .enc with
      lat := { lat13 with e := 5, m := 10, bias := 15, exp := 16, mant := 0 } })).map
      (fun t => statusWord t.status) = some 0x12 := by decide

/-- R96: the moves of `LDFMT Half`. -/
theorem test_asm_ldfmt : asmMoves (.ldfmtStd .half) = [.write 0x2 5, .write 0x3 10, .write 0x4 15] := by decide

/-- The text of program P1 of 95_test_vectors.md, and lines that are no operation. -/
theorem test_asm_text :
    parseProgram "  LDFMT Double ; W(0x2, 11)\n LDNUM 0, 0, 1\n ENC ; x\n WAIT\n GET STATUS\n".toList =
      .ok [.ldfmtStd .double, .ldnum false 0 1, .cmd .enc, .wait, .get .status] ∧
    parseLine "SET FMT_BIAS, -0x1F".toList = .ok (some (.set .fmtBias (-31))) ∧
    parseLine "WRB 2".toList = .error .badOperands ∧ parseLine "FLUSH".toList = .error .unknownOperation := by
  decide

/-- R41: the low bits that a register of finite width keeps. -/
theorem test_low_bits :
    keepSigned (some 4) 9 = -7 ∧ keepSigned none 9 = 9 ∧ keepUnsigned 4 (-1) = 15 ∧ keepKind 0xFF = 0x07 := by decide

/-! ## States that meet the invariant -/

theorem adapter_at_reset : AdapterInv State.reset := ⟨.inl rfl, 7, by decide, by decide, by decide⟩

theorem result_at_reset : ResultInv State.reset :=
  ⟨by decide, by decide, by decide, fun _ => ⟨rfl, rfl⟩, by decide⟩

theorem width_at_reset : WidthInv State.reset := ⟨rfl, rfl, rfl, rfl, rfl, rfl, rfl, rfl⟩

theorem encSending_inv : Inv encSending where
  adapter := ⟨.inl rfl, 7, by decide, by decide, by decide⟩
  control := ⟨by decide, by decide, by decide, by decide, by decide, fun _ _ => by decide⟩
  result := ⟨by decide, by decide, by decide, fun _ => ⟨rfl, rfl⟩, by decide⟩
  width := ⟨rfl, rfl, rfl, rfl, rfl, rfl, rfl, rfl⟩
  encoding := fun _ _ =>
    ⟨by rfl, by decide, by decide, ⟨[], by decide⟩, by decide,
      by intro b h; cases h; decide⟩
  decoding := by intro h; cases h

theorem decLastBit_inv : Inv decLastBit where
  adapter := ⟨.inr ⟨0, by decide, by decide⟩, 7, by decide, by decide, by decide⟩
  control := ⟨by decide, by decide, by decide, by decide, by decide, by intro b h; cases h⟩
  result := ⟨by decide, by decide, by decide, fun _ => ⟨rfl, rfl⟩, by decide⟩
  width := ⟨rfl, rfl, rfl, rfl, rfl, rfl, rfl, rfl⟩
  encoding := by intro h; cases h
  decoding := fun _ _ =>
    ⟨by decide, by decide, by decide, ⟨[], [0x55], by decide, by decide, by decide, by decide⟩, by decide, by decide⟩

theorem decWaiting_inv : Inv decWaiting where
  adapter := ⟨.inl rfl, 7, by decide, by decide, by decide⟩
  control := ⟨by decide, by decide, by decide, by decide, by decide, by intro b h; cases h⟩
  result := ⟨by decide, by decide, by decide, fun _ => ⟨rfl, rfl⟩, by decide⟩
  width := ⟨rfl, rfl, rfl, rfl, rfl, rfl, rfl, rfl⟩
  encoding := by intro h; cases h
  decoding := fun _ _ =>
    ⟨by decide, by decide, by decide, ⟨[], [], by decide, by decide, by decide, by decide⟩, by decide, by decide⟩

theorem rdbWaiting_inv : Inv rdbWaiting where
  adapter := ⟨.inl rfl, 7, by decide, by decide, by decide⟩
  control := ⟨by decide, by decide, by decide, by decide, by decide, by intro b h; cases h⟩
  result := ⟨by decide, by decide, by decide, fun _ => ⟨rfl, rfl⟩, by decide⟩
  width := ⟨rfl, rfl, rfl, rfl, rfl, rfl, rfl, rfl⟩
  encoding := by intro h; cases h
  decoding := by intro h; cases h

theorem wrbSending_inv : Inv wrbSending where
  adapter := ⟨.inl rfl, 7, by decide, by decide, by decide⟩
  control := ⟨by decide, by decide, by decide, by decide, by decide, fun _ _ => by decide⟩
  result := ⟨by decide, by decide, by decide, fun _ => ⟨rfl, rfl⟩, by decide⟩
  width := ⟨rfl, rfl, rfl, rfl, rfl, rfl, rfl, rfl⟩
  encoding := by intro h; cases h
  decoding := by intro h; cases h

/-- The answers still to come and the moves of the host are no part of the invariant. -/
theorem inv_of_world {s : State} (h : Inv s) (ins : List Input) (src : List SrcAnswer) (snk : List SnkAnswer) :
    Inv { s with inputs := ins, source := src, sink := snk } where
  adapter := ⟨h.adapter.1, h.adapter.2⟩
  control := ⟨h.control.1, h.control.2, h.control.3, h.control.4, h.control.5, h.control.6⟩
  result := ⟨h.result.1, h.result.2, h.result.3, h.result.4, h.result.5⟩
  width := ⟨h.width.1, h.width.2, h.width.3, h.width.4, h.width.5, h.width.6, h.width.7, h.width.8⟩
  encoding := fun a b => let g := h.encoding a b; ⟨g.1, g.2, g.3, g.4, g.5, g.6⟩
  decoding := fun a b => let g := h.decoding a b; ⟨g.1, g.2, g.3, g.4, g.5, g.6⟩

/-- With no move to come there is no reset to come. -/
theorem no_reset {s : State} (h : s.inputs = []) : ¬ResetNext s := by
  rintro ⟨c, rest, g⟩
  rw [h] at g
  cases g

/-! ## Witnesses: hypotheses of the obligations that something meets -/

theorem witness_DecodeInvertsEncode : (Instr.wrb true).wf = true ∧ decode 0x14 = .ok (.wrb true) := by decide

theorem witness_IllegalCommandSetsStatusOnly :
    (State.reset.withFetchWord 8 0x06).inputs = [.write 0x0 0x06] ∧ State.reset.status.busy = false ∧
    decode (BitVec.ofInt 8 0x06) = .error .unassignedOp ∧ decode (BitVec.ofInt 8 0x0F) = .error .unassignedOp ∧
    decode (BitVec.ofInt 8 0x20) = .error .reservedBits ∧ decode (BitVec.ofInt 8 0x11) = .error .wbitWithoutWrb := by
  decide

theorem witness_CtrlWriteWhileBusyIgnored :
    ((running .rdb).withFetchWord 8 0x01).inputs = [.write 0x0 0x01] ∧ (running .rdb).status.busy = true := by decide

theorem witness_StepRunsTheDecodedCommand :
    ((State.reset.withFetchWord 8 0x14).inputs = [.write 0x0 0x14] ∧ State.reset.status.busy = false ∧
      decode (BitVec.ofInt 8 0x14) = .ok (.wrb true) ∧ (Instr.wrb true).wf = true) ∧
    ((running .dec).inputs = [] ∧ (running .dec).status.busy = true ∧ runningCommand (running .dec) = some .dec) ∧
    (({ running .enc with inputs := [.block] } : State).inputs = .block :: [] ∧
      runningCommand (running .enc) = some .enc) ∧
    (State.reset.inputs = [] ∧ State.reset.status.busy = false) := by decide

theorem witness_AcceptanceEntersThePhase : State.reset.status.busy = false := rfl

theorem witness_OperandsAreLatchedAtAcceptance :
    State.reset.status.busy = false ∧ (running .enc).status.busy = true := by decide

theorem witness_SinitReinitialisesBothAdapters : State.reset.status.busy = false := rfl

/-- Each clause: a set flag; a bit in hand, the last one; no bit left; a byte answered; a failure answered. -/
theorem witness_RdbReadsOneBit :
    ((running .rdb).status.busy = true ∧ (running .rdb).phase = .rdb) ∧
    (({ running .rdb with status := { (running .rdb).status with rfail := true } } : State).status.rfail = true ∧
      (running .rdb).pend = .none) ∧
    (({ running .rdb with rmask := 0x01 } : State).rmask ≠ 0x00 ∧ (running .rdb).status.rfail = false) ∧
    (running .rdb).rmask = 0x00 ∧
    (rdbWaiting.pend = .src ∧ ({ rdbWaiting with source := [.ok 0xA5] } : State).source = .ok 0xA5 :: []) ∧
    ({ rdbWaiting with source := [.fail] } : State).source = .fail :: [] := by decide

/-- Each clause: a set flag; the mask at bit 7 and at bit 1; the mask at bit 0; an accepted and a refused byte. -/
theorem witness_WrbWritesOneBit :
    ((running .wrb).status.busy = true ∧ (running .wrb).phase = .wrb ∧ (running .wrb).pend = .none) ∧
    ({ running .wrb with status := { (running .wrb).status with wfail := true } } : State).status.wfail = true ∧
    ((running .wrb).status.wfail = false ∧ (running .wrb).wmask >>> 1 ≠ 0x00 ∧ (0x02 : Byte) >>> 1 ≠ 0x00) ∧
    ({ running .wrb with wmask := 0x01 } : State).wmask >>> 1 = 0x00 ∧
    (wrbSending.pend = .snk 0xFF ∧ ({ wrbSending with sink := [.ok] } : State).sink = .ok :: []) ∧
    ({ wrbSending with sink := [.fail] } : State).sink = .fail :: [] := by decide

/-- Each clause at both ends of the byte. -/
theorem witness_BitOrderIsMsbFirst :
    ((running .rdb).status.busy = true ∧ (running .rdb).pend = .none ∧ (running .rdb).status.rfail = false ∧
      ({ running .rdb with rmask := 0x01 } : State).rmask = BitVec.twoPow 8 0 ∧
      ({ running .rdb with rmask := 0x80 } : State).rmask = BitVec.twoPow 8 7) ∧
    (rdbWaiting.pend = .src ∧ ({ rdbWaiting with source := [.ok 0x80] } : State).source = .ok 0x80 :: []) ∧
    ((running .wrb).wmask = BitVec.twoPow 8 7 ∧ (running .wrb).wacc.getLsbD 7 = false ∧
      ({ running .wrb with wmask := 0x01 } : State).wmask = BitVec.twoPow 8 0 ∧
      (running .wrb).wacc.getLsbD 0 = false ∧ (running .wrb).status.wfail = false) := by decide

theorem witness_FailedFetchLeavesTheReader :
    (({ rdbWaiting with source := [.fail] } : State).status.busy = true ∧ rdbWaiting.pend = .src ∧
      rdbWaiting.phase = .rdb) ∧
    (({ decWaiting with source := [.fail] } : State).source = .fail :: [] ∧ decWaiting.pend = .src ∧
      decWaiting.phase = .dec ∧ decWaiting.opened = true) ∧
    Inv { rdbWaiting with source := [.fail], inputs := [] } :=
  ⟨by decide, by decide, inv_of_world rdbWaiting_inv _ _ _⟩

theorem witness_RefusedSendLosesTheByte :
    (wrbSending.status.busy = true ∧ wrbSending.pend = .snk 0xFF ∧ wrbSending.phase = .wrb) ∧
    (encSending.status.busy = true ∧ encSending.pend = .snk 0x55 ∧ encSending.phase = .enc ∧
      encSending.opened = true ∧ ({ encSending with sink := [.fail] } : State).sink = .fail :: []) ∧
    Inv { wrbSending with sink := [.fail], inputs := [] } :=
  ⟨by decide, by decide, inv_of_world wrbSending_inv _ _ _⟩

theorem witness_EightWrbSendOneByte :
    ∃ (s : State) (bits : List Bool), bits.length = 8 ∧ s.status.busy = false ∧ s.pend = .none ∧
      s.status.wfail = false ∧ s.wacc = 0x00 ∧ s.wmask = 0x80 ∧
      s.inputs = bits.flatMap (fun b => [.write 0x0 (encode (.wrb b)).toNat, .wait]) ∧ s.sink = .ok :: [] :=
  ⟨{ State.reset with
      inputs := (bitsE 0xA5 8).flatMap (fun b => [.write 0x0 (encode (.wrb b)).toNat, .wait]), sink := [.ok] },
    bitsE 0xA5 8, by decide⟩

/-- The four cases of R138 to R140 at their boundaries, under Half with `m = 1` (so `L = 0`, `f = e + 15`):
`M + f = 0`; `M + f = 1` and `f = 0`; `f = 1` and `f = 30`; `f = 31`. -/
theorem witness_FiniteEncodingBitByBit :
    (0 : Int) = (Nat.log2 1 : Nat) ∧
    (-10 : Int) = -25 + 15 + 0 ∧ (10 : Int) + -10 ≤ 0 ∧
    (-9 : Int) = -24 + 15 + 0 ∧ 1 ≤ (10 : Int) + -9 ∧ (0 : Int) = -15 + 15 + 0 ∧
    (1 : Int) = -14 + 15 + 0 ∧ (30 : Int) = 15 + 15 + 0 ∧ (30 : Int) < 2 ^ 5 - 1 ∧
    (31 : Int) = 16 + 15 + 0 ∧ (2 ^ 5 - 1 : Int) ≤ 31 := by decide

/-- `-3 * 2^-10` truncates to `-2^-9`; `31 * 2^3 = 248` stands between the largest finite value 240 and `2^8`. -/
theorem witness_EncoderTruncatesTowardZero :
    (1 ≤ (⟨4, 3, 7⟩ : Descriptor).e ∧ encodeBits (.finite true (-10) 3) ⟨4, 3, 7⟩ = some (bitsE 0x81 8)) ∧
    (2 ≤ (⟨4, 3, 7⟩ : Descriptor).e + (⟨4, 3, 7⟩ : Descriptor).m ∧
      bitsE 0x77 8 = [false] ++ bitsE (2 ^ 4 - 2) 4 ++ List.replicate 3 true ∧
      magnitude (decodeBits (bitsE 0x77 8) ⟨4, 3, 7⟩) = some (((15 : Nat) : ℚ) * 2 ^ (4 : Int)) ∧
      ((15 : Nat) : ℚ) * 2 ^ (4 : Int) ≤ ((31 : Nat) : ℚ) * 2 ^ (3 : Int) ∧
      ((31 : Nat) : ℚ) * 2 ^ (3 : Int) < 2 ^ ((2 : Int) ^ 4 - 1 - 7)) :=
  ⟨by decide, by decide, by decide, rfl, by norm_num, by norm_num⟩

theorem witness_CanonicalNan : 1 ≤ (⟨4, 3, 7⟩ : Descriptor).m ∧ (⟨7, 0, 63⟩ : Descriptor).m = 0 := by decide

theorem witness_ZeroInfinityNanEncodings : 1 ≤ (⟨6, 1, 31⟩ : Descriptor).m ∧ (⟨7, 0, 63⟩ : Descriptor).m = 0 := by
  decide

theorem witness_FormatErrorsTouchNothing :
    ((running .enc).status.busy = true ∧ (running .enc).opened = false ∧ (running .enc).phase = .enc ∧
      (1 + (running .enc).lat.e.toNat + (running .enc).lat.m.toNat) % 8 ≠ 0 ∧
      runningCommand (running .enc) = some .enc ∧ runningCommand (running .dec) = some .dec) ∧
    ((1 + ({ lat13 with e := 16, m := 111 } : Latched).e.toNat + (111 : BitVec 32).toNat) % 8 = 0 ∧
      ({ Config.reference with eMax := 15 } : Params).eMax < (16 : BitVec 32).toNat) := by decide

theorem witness_OperandErrorsTouchNothing :
    (encAccepted.status.busy = true ∧ encAccepted.phase = .enc ∧ encAccepted.opened = false ∧
      (1 + lat13.e.toNat + lat13.m.toNat) % 8 = 0 ∧ lat13.e.toNat ≤ encAccepted.params.eMax ∧
      lat13.m.toNat ≤ encAccepted.params.mMax ∧ lat13.tag = 3) ∧
    ({ lat13 with mant := 0 } : Latched).mant = 0 ∧
    (1 ≤ ({ lat13 with exp := 8, mant := 1 } : Latched).mant ∧ (1 : Int) ≤ 8 + 7 + (Nat.log2 1 : Nat) ∧
      (2 ^ 4 - 1 : Int) ≤ 8 + 7 + (Nat.log2 1 : Nat)) := by decide

/-- Each clause: the checks pass; a middle bit; the eighth bit; a byte taken before the last; the last byte taken. -/
theorem witness_EncSteps :
    (encAccepted.status.busy = true ∧ encAccepted.phase = .enc ∧ encAccepted.opened = false ∧
      encAccepted.pend = .none) ∧
    encPrepare encAccepted.params encAccepted.lat = .ok (bitsE 0x55 8) ∧
    (encSending.opened = true ∧ (0x80 : Byte) >>> 1 ≠ 0x00 ∧ 6 + 1 < lat13.descriptor.n) ∧
    (0x01 : Byte) >>> 1 = 0x00 ∧
    (7 + 1 < ({ lat13 with e := 5, m := 10 } : Latched).descriptor.n) ∧
    (encSending.pend = .snk 0x55 ∧ encSending.sink = .ok :: [] ∧ encSending.k + 1 = encSending.lat.descriptor.n) := by
  refine ⟨by decide, rfl, ?_⟩
  decide

theorem witness_EncRunSendsTheEncoding :
    ∃ s : State, s.status.busy = false ∧ s.pend = .none ∧ s.inputs = [.write 0x0 0x01] ∧
      encPrepare s.params (latchOperands false s) = .ok (bitsE 0x55 8) ∧
      s.sink = List.replicate ((bitsE 0x55 8).length / 8) .ok ++ [] :=
  ⟨{ State.reset with
      fmtE := 4, fmtM := 3, fmtBias := 7, inKind := 0x03, inMant := 13
      inputs := [.write 0x0 0x01], sink := [.ok] }, rfl, rfl, rfl, rfl, by decide⟩

/-- A step that ends an `ENC`, and each tag, the NaN with its sign bit set. -/
theorem witness_EncEndsWithItsBytesSent :
    (∃ s t : State, Inv s ∧ s.phase = .enc ∧ ¬ResetNext s ∧ step s = .next t ∧ t.status.busy = false ∧
      t.status.err = 0) ∧
    (({ lat13 with tag := 0 } : Latched).tag = 0 ∧ ({ lat13 with tag := 1 } : Latched).tag = 1 ∧
      ({ lat13 with tag := 2, sign := true } : Latched).tag = 2 ∧ lat13.tag = 3) :=
  ⟨⟨encSending, _, encSending_inv, rfl, no_reset rfl, rfl, rfl, rfl⟩, by decide⟩

theorem witness_EncodingBitPlacement : (bitsE 0x3C00 16).length = 8 * 2 ∧ 0 < 16 ∧ 15 < 16 := by decide

theorem witness_FieldsOfTheInteger : (bitsE 0x3C00 16).length = (Config.standard .half).n := by decide

theorem witness_PopcountMeetsAllOnes : 15 < 2 ^ 4 ∧ 0 < 2 ^ 0 := by decide

/-- Each clause, at the ends of its range of `f`, under `(4, 3, 7)` and with `E = 0`. -/
theorem witness_DecodedClassAndValue :
    (bitsE 0x79 8).length = (⟨4, 3, 7⟩ : Descriptor).n ∧
    (exponentField (bitsE 0x79 8) ⟨4, 3, 7⟩ = 2 ^ 4 - 1 ∧ mantissaField (bitsE 0x79 8) ⟨4, 3, 7⟩ ≠ 0) ∧
    (exponentField (bitsE 0x78 8) ⟨4, 3, 7⟩ = 2 ^ 4 - 1 ∧ mantissaField (bitsE 0x78 8) ⟨4, 3, 7⟩ = 0) ∧
    (exponentField (bitsE 0x80 8) ⟨4, 3, 7⟩ = 0 ∧ mantissaField (bitsE 0x80 8) ⟨4, 3, 7⟩ = 0) ∧
    (exponentField (bitsE 0x07 8) ⟨4, 3, 7⟩ = 0 ∧ mantissaField (bitsE 0x07 8) ⟨4, 3, 7⟩ ≠ 0) ∧
    (exponentField (bitsE 0x08 8) ⟨4, 3, 7⟩ = 1 ∧ exponentField (bitsE 0x77 8) ⟨4, 3, 7⟩ = 2 ^ 4 - 2) ∧
    (⟨0, 7, 0⟩ : Descriptor).e = 0 := by decide

theorem witness_DecodedMantissaIsOdd : decodeBits (bitsE 0x55 8) ⟨4, 3, 7⟩ = .finite false 0 13 := by decide

theorem witness_DecodedRanges :
    1 ≤ (⟨4, 3, 7⟩ : Descriptor).e ∧ (bitsE 0x01 8).length = (⟨4, 3, 7⟩ : Descriptor).n ∧
    (decodeBits (bitsE 0x01 8) ⟨4, 3, 7⟩ = .finite false (-9) 1 ∧ exponentField (bitsE 0x01 8) ⟨4, 3, 7⟩ = 0) ∧
    (decodeBits (bitsE 0x77 8) ⟨4, 3, 7⟩ = .finite false 4 15 ∧ exponentField (bitsE 0x77 8) ⟨4, 3, 7⟩ ≠ 0) := by
  decide

theorem witness_DecodeThenEncodeIsIdentity :
    1 ≤ (⟨4, 3, 7⟩ : Descriptor).e ∧ (bitsE 0x55 8).length = (⟨4, 3, 7⟩ : Descriptor).n ∧
    decodeBits (bitsE 0x55 8) ⟨4, 3, 7⟩ ≠ .nan ∧ decodeBits (bitsE 0xFF 8) ⟨4, 3, 7⟩ = .nan := by decide

/-- Each clause: the checks pass; a middle bit; no bit left; a byte answered. -/
theorem witness_DecSteps :
    (decAccepted.status.busy = true ∧ decAccepted.phase = .dec ∧ decAccepted.opened = false ∧
      decAccepted.pend = .none ∧ checkFormat decAccepted.params decAccepted.lat.descriptor = none) ∧
    (decLastBit.opened = true ∧ decLastBit.pend = .none ∧ decLastBit.rmask ≠ 0x00 ∧
      6 + 1 < decLastBit.lat.descriptor.n) ∧
    decAccepted.rmask = 0x00 ∧
    (decWaiting.opened = true ∧ decWaiting.pend = .src ∧
      ({ decWaiting with source := [.ok 0x55] } : State).source = .ok 0x55 :: [] ∧
      decWaiting.k + 1 < decWaiting.lat.descriptor.n) := by decide

/-- Both clauses: a result that fits, and one that an instance with a one-bit `OUT_MANT` cannot hold. -/
theorem witness_DecWritesItsResult :
    (decLastBit.status.busy = true ∧ decLastBit.phase = .dec ∧ decLastBit.opened = true ∧
      decLastBit.pend = .none ∧ decLastBit.rmask ≠ 0x00 ∧ decLastBit.k + 1 = decLastBit.lat.descriptor.n ∧
      Number.finite false 0 13 =
        decodeBits (decLastBit.buf ++ [(decLastBit.rcur &&& decLastBit.rmask) != 0]) decLastBit.lat.descriptor) ∧
    resultFits decLastBit.params (.finite false 0 13) = true := by decide

theorem witness_NarrowInstanceIsRefused :
    resultFits { Config.reference with mantW := some 1 } (.finite false 0 13) = false ∧
    exec .dec { decLastBit with params := { Config.reference with mantW := some 1 } } =
      .refused .resultWiderThanInstance := ⟨by decide, rfl⟩

theorem witness_DecRunDecodesTheSource :
    ∃ (s : State) (bytes : List Byte) (d : Descriptor) (n : Number),
      s.status.busy = false ∧ s.pend = .none ∧ s.inputs = [.write 0x0 0x02] ∧
      d = (latchOperands false s).descriptor ∧ checkFormat s.params d = none ∧ bytes.length = d.n / 8 ∧
      s.source = bytes.map SrcAnswer.ok ++ [] ∧ n = decodeBits (bitsOfBytes bytes) d ∧
      resultFits s.params n = true :=
  ⟨{ State.reset with
      fmtE := 5, fmtM := 10, fmtBias := 15, inputs := [.write 0x0 0x02], source := [.ok 0xC1, .ok 0x00] },
    [0xC1, 0x00], ⟨5, 10, 15⟩, .finite true (-1) 5, by decide⟩

theorem witness_DecEndsWithItsBytesDecoded :
    ∃ s t : State, Inv s ∧ s.phase = .dec ∧ ¬ResetNext s ∧ step s = .next t ∧ t.status.busy = false ∧
      t.status.err = 0 :=
  ⟨decLastBit, _, decLastBit_inv, rfl, no_reset rfl, rfl, rfl, rfl⟩

theorem witness_InvariantKeptByEveryStep : ∃ s t : State, Inv s ∧ step s = .next t :=
  ⟨decWaiting, _, decWaiting_inv, rfl⟩

theorem witness_AdapterStatesStayLegal : ∃ s t : State, AdapterInv s ∧ step s = .next t :=
  ⟨encSending, _, encSending_inv.adapter, rfl⟩

theorem witness_ResultRegistersStayResults : ∃ s t : State, ResultInv s ∧ step s = .next t :=
  ⟨decLastBit, _, decLastBit_inv.result, rfl⟩

theorem witness_RegistersKeepTheirWidths : ∃ s t : State, WidthInv s ∧ step s = .next t :=
  ⟨decLastBit, _, decLastBit_inv.width, rfl⟩

theorem witness_LegalInstanceNeverStops : decLastBit.params.wf = true ∧ Inv decLastBit :=
  ⟨by decide, decLastBit_inv⟩

theorem witness_OnlyCtrlWritesStartCommands :
    ∃ s t : State, step s = .next t ∧ s.status.busy = false ∧ t.status.busy = true :=
  ⟨State.reset.withFetchWord 8 0x03, _, rfl, rfl, rfl⟩

/-- Both clauses, the first with an end without error and with `IOFailure`. -/
theorem witness_CommandsEndInOneStep :
    (∃ s t : State, Inv s ∧ s.status.busy = true ∧ ¬ResetNext s ∧ step s = .next t ∧ t.status.busy = false ∧
      t.status.err = 0) ∧
    (∃ s t : State, Inv s ∧ s.status.busy = true ∧ ¬ResetNext s ∧ step s = .next t ∧ t.status.busy = false ∧
      t.status.err ≠ 0) ∧
    (∃ s : State, s.status.busy = false ∧ s.inputs = .block :: []) :=
  ⟨⟨encSending, _, encSending_inv, rfl, no_reset rfl, rfl, rfl, rfl⟩,
    ⟨{ rdbWaiting with source := [.fail], inputs := [] }, _, inv_of_world rdbWaiting_inv _ _ _, rfl,
      no_reset rfl, rfl, rfl, by decide⟩,
    ⟨{ State.reset with inputs := [.block] }, rfl, rfl⟩⟩

/-- The clauses that speak of two states, each met by one step. -/
theorem witness_FailureFlagsAreSticky :
    (∃ s t : State, step s = .next t ∧ s.status.rfail = false ∧ t.status.rfail = true) ∧
    (∃ s t : State, step s = .next t ∧ s.status.wfail = false ∧ t.status.wfail = true) ∧
    (∃ s t : State, step s = .next t ∧ s.status.rfail = true ∧ t.status.rfail = false) ∧
    (∃ s t : State, step s = .next t ∧ s.status.wfail = true ∧ t.status.wfail = false) ∧
    (∃ s : State, Inv s ∧ s.status.busy = true ∧ runningCommand s = some .rdb ∧ s.pend = .src ∧
      s.source = .fail :: []) ∧
    (∃ s : State, Inv s ∧ s.status.busy = true ∧ runningCommand s = some (.wrb false) ∧ s.pend = .snk 0xFF ∧
      s.sink = .fail :: []) ∧
    (∃ s : State, s.status.busy = true ∧ s.phase = .rdb ∧ s.pend = .none ∧ s.status.rfail = true) ∧
    (∃ s : State, s.status.busy = true ∧ s.phase = .wrb ∧ s.pend = .none ∧ s.status.wfail = true) :=
  ⟨⟨{ rdbWaiting with source := [.fail] }, _, rfl, rfl, rfl⟩,
    ⟨{ wrbSending with sink := [.fail] }, _, rfl, rfl, rfl⟩,
    ⟨{ State.reset with
        status := { Status.atReset with rfail := true }, inputs := [.write 0x0 0x05] }, _, rfl, rfl, rfl⟩,
    ⟨{ encAccepted with status := { encAccepted.status with wfail := true } }, _, rfl, rfl, rfl⟩,
    ⟨{ rdbWaiting with source := [.fail], inputs := [] }, inv_of_world rdbWaiting_inv _ _ _, rfl, rfl, rfl, rfl⟩,
    ⟨{ wrbSending with sink := [.fail], inputs := [] }, inv_of_world wrbSending_inv _ _ _, rfl, rfl, rfl, rfl⟩,
    ⟨{ running .rdb with status := { (running .rdb).status with rfail := true } }, rfl, rfl, rfl, rfl⟩,
    ⟨{ running .wrb with status := { (running .wrb).status with wfail := true } }, rfl, rfl, rfl, rfl⟩⟩

theorem witness_ResultsHaveOneWriter :
    (∃ s t : State, step s = .next t ∧ ¬ResetNext s ∧ t.status.rbit ≠ s.status.rbit) ∧
    (∃ s t : State, step s = .next t ∧ ¬ResetNext s ∧ t.outMant ≠ s.outMant) :=
  ⟨⟨{ rdbWaiting with source := [.ok 0x80] }, _, rfl, no_reset rfl, by decide⟩,
    ⟨decLastBit, _, rfl, no_reset rfl, by decide⟩⟩

theorem witness_PortsMoveOneByteAtATime :
    ∃ s t : State, step s = .next t ∧ ¬ResetNext s ∧ t.sunk ≠ s.sunk :=
  ⟨encSending, _, rfl, no_reset rfl, by decide⟩

theorem witness_BitCounterAdvancesByOne :
    ∃ s t : State, Inv s ∧ step s = .next t ∧ ¬ResetNext s ∧ t.k ≠ s.k :=
  ⟨encSending, _, encSending_inv, rfl, no_reset rfl, by decide⟩

theorem witness_UnansweredTransactionHangs :
    (Inv { rdbWaiting with source := [], inputs := [] } ∧ Unanswered rdbWaiting ∧ rdbWaiting.inputs = []) ∧
    (∃ t, Inv { rdbWaiting with source := [], inputs := [.write 0x2 5, .wait] } ∧
      runSteps 3 { rdbWaiting with source := [], inputs := [.write 0x2 5, .wait] } = .next t) :=
  ⟨⟨inv_of_world rdbWaiting_inv _ _ _, .inl ⟨rfl, rfl⟩, rfl⟩, _, inv_of_world rdbWaiting_inv _ _ _, rfl⟩

theorem witness_ResetInputResetsTheBlock :
    ({ encSending with inputs := [.reset false] } : State).inputs = .reset false :: [] ∧
    ({ encSending with inputs := [.reset true] } : State).inputs = .reset true :: [] := ⟨rfl, rfl⟩

theorem witness_ResetValuesAsRead : (0x0 : RegNo) ≠ 0xC ∧ (0xF : RegNo) ≠ 0xC := by decide

theorem witness_ResetAbandonsTheCommand :
    ∃ s t : State, s.inputs = .reset true :: [] ∧ step s = .next t ∧ t.sunk ≠ s.sunk :=
  ⟨{ encSending with inputs := [.reset true] }, _, rfl, rfl, by decide⟩

/-- Each clause: the read-only and reserved numbers at their ends, finite and unbounded registers, both signs. -/
theorem witness_RegisterAccess :
    ((0x8 : Nat) ≤ (0x8 : RegNo).toNat ∧ (0x8 : Nat) ≤ (0xF : RegNo).toNat) ∧
    (({ State.reset with inputs := [.write 0x2 (2 ^ 32)] } : State).inputs = .write 0x2 (2 ^ 32) :: []) ∧
    (State.reset.params.biasW = none ∧ ({ Config.reference with biasW := some 1 } : Params).biasW = some 1 ∧
      1 ≤ 1) ∧
    (State.reset.params.expW = none ∧ ({ Config.reference with expW := some 1 } : Params).expW = some 1) ∧
    (({ Config.reference with mantW := some 53 } : Params).mantW = some 53 ∧ State.reset.params.mantW = none ∧
      (0 : Int) ≤ 0) ∧
    ({ State.reset with inputs := [.read 0xC] } : State).inputs = .read 0xC :: [] := by decide

theorem witness_NegativeMantissaIsFree :
    ({ State.reset with inputs := [.write 0x7 (-1)] } : State).inputs = .write 0x7 (-1) :: [] ∧
    State.reset.params.mantW = none ∧ (-1 : Int) < 0 := by decide

theorem witness_ReservedRegisters :
    0xD ≤ (0xD : RegNo).toNat ∧ 0xD ≤ (0xF : RegNo).toNat ∧
    ({ State.reset with inputs := [.write 0xD 7] } : State).inputs = .write 0xD 7 :: [] := by decide

theorem witness_ReadingCommandsFrame :
    (∃ t, exec .rdb { rdbWaiting with source := [.ok 0x80] } = .next t) ∧ (∃ t, exec .dec decLastBit = .next t) ∧
    decLastBit.status.busy = true :=
  ⟨⟨_, rfl⟩, ⟨_, rfl⟩, rfl⟩

theorem witness_WritingCommandsFrame :
    (∃ t, exec .enc encSending = .next t) ∧ (∃ t, exec (.wrb true) { wrbSending with sink := [.ok] } = .next t) ∧
    encSending.status.busy = true :=
  ⟨⟨_, rfl⟩, ⟨_, rfl⟩, rfl⟩

theorem witness_ParametersAreFixed : ∃ t, step encSending = .next t := ⟨_, rfl⟩

end Sys2Proof.Machine.Tests
end

section
/-!
PROOFS. What a host read or write of a register does in one step (R40, R41): the registers that ignore a write, the
low bits that each operand register keeps, and the two obligations `RegisterAccess` and `ReservedRegisters`.
-/
namespace Sys2Proof.Machine

/-! ## The low bits a register keeps (R41) -/

theorem toNat_ofInt_eq_emod (n : Nat) (v : Int) : ((BitVec.ofInt n v).toNat : Int) = v % 2 ^ n := by
  rw [BitVec.toNat_ofInt, Int.toNat_of_nonneg (Int.emod_nonneg _ (by positivity))]
  norm_cast

/-- R32: of a value written to `IN_KIND` the bits [2:0] stay. -/
theorem keepKind_ofInt_toNat (v : Int) : ((keepKind (BitVec.ofInt 8 v)).toNat : Int) = v % 8 := by
  have low : (keepKind (BitVec.ofInt 8 v)).toNat = (BitVec.ofInt 8 v).toNat % 2 ^ 3 := by
    rw [keepKind, BitVec.toNat_and]
    exact Nat.and_two_pow_sub_one_eq_mod _ 3
  have wide := toNat_ofInt_eq_emod 8 v
  omega

theorem keepUnsigned_eq_emod (w : Nat) (v : Int) : (keepUnsigned w v : Int) = v % 2 ^ w :=
  Int.toNat_of_nonneg (Int.emod_nonneg _ (by positivity))

/-- A two's complement register of width `w` holds the one value of its range that agrees with `v` in the low bits. -/
theorem keepSigned_some_spec {w : Nat} (hw : 1 ≤ w) (v : Int) :
    (2 : Int) ^ w ∣ keepSigned (some w) v - v ∧
      -(2 ^ (w - 1)) ≤ keepSigned (some w) v ∧ keepSigned (some w) v < 2 ^ (w - 1) := by
  have half : (2 : Int) ^ w = 2 * 2 ^ (w - 1) := by rw [← pow_succ', Nat.sub_add_cancel hw]
  have pow_cast : ((2 ^ w : Nat) : Int) = 2 ^ w := by norm_cast
  have pos : 0 < 2 ^ w := by positivity
  have agree : ((2 ^ w : Nat) : Int) ∣ v.bmod (2 ^ w) - v := Int.dvd_bmod_sub_self
  have lower := Int.le_bmod (x := v) pos
  have upper := Int.bmod_lt (x := v) pos
  rw [pow_cast, half] at lower upper
  exact ⟨pow_cast ▸ agree, by rw [keepSigned]; omega, by rw [keepSigned]; omega⟩

/-! ## The step of a host read or write -/

/-- R21, R41: a host write of any register but `CTRL` takes effect in the step that takes it. -/
theorem step_write_of_ne_ctrl {s : State} {r : RegNo} {v : Int} {rest : List Input}
    (hi : s.inputs = .write r v :: rest) (hr : r ≠ 0x0) :
    step s = .next (writeRegister r v { s with inputs := rest }) := by
  have hr : r ≠ Reg.ctrl.number := hr
  simp [step, hi, takeInput, hostWrite, hr]

/-- R40, R41: a write of a read-only register or of a reserved number is ignored. -/
theorem writeRegister_readOnly {r : RegNo} (hr : r = 0x1 ∨ 0x8 ≤ r.toNat) (v : Int) (s : State) :
    writeRegister r v s = s := by
  rcases writeRegister_cases r v s with ⟨rfl, _⟩ | ⟨rfl, _⟩ | ⟨rfl, _⟩ | ⟨rfl, _⟩ | ⟨rfl, _⟩ | ⟨rfl, _⟩ | ⟨_, same⟩
  case inr.inr.inr.inr.inr.inr => exact same
  all_goals exact absurd hr (by decide)

theorem step_write_readOnly {s : State} {r : RegNo} {v : Int} {rest : List Input}
    (hi : s.inputs = .write r v :: rest) (hr : r = 0x1 ∨ 0x8 ≤ r.toNat) :
    step s = .next { s with inputs := rest } := by
  have ne_ctrl : r ≠ 0x0 := by rintro rfl; exact absurd hr (by decide)
  rw [step_write_of_ne_ctrl hi ne_ctrl, writeRegister_readOnly hr]

theorem step_read {s : State} {r : RegNo} {rest : List Input} (hi : s.inputs = .read r :: rest) :
    step s = .next { s with inputs := rest, seen := s.seen ++ [(r, readRegister s r)] } := by
  simp only [step, hi, takeInput]
  rfl

/-- R40: the reserved numbers read 0. -/
theorem readRegister_reserved {r : RegNo} (hr : 0xD ≤ r.toNat) (s : State) : readRegister s r = 0 := by
  have number : r = 0xD ∨ r = 0xE ∨ r = 0xF := by revert r; decide
  rcases number with rfl | rfl | rfl <;> rfl

/-- What a write of a signed register leaves to be read: the value itself, or the value of the register's range that
agrees with it in the low bits. -/
theorem keepSigned_reads (width : Option Nat) (v : Int) :
    (width = none → keepSigned width v = v) ∧
    (∀ w, width = some w → 1 ≤ w → (2 : Int) ^ w ∣ keepSigned width v - v ∧
      -(2 ^ (w - 1)) ≤ keepSigned width v ∧ keepSigned width v < 2 ^ (w - 1)) := by
  constructor
  · rintro rfl
    rfl
  · rintro w rfl hw
    exact keepSigned_some_spec hw v

/-- R34, R41: a bounded `IN_MANT` keeps the low bits. -/
theorem writeMantissa_bounded {s : State} {w : Nat} (hw : s.params.mantW = some w) (v : Int) :
    writeMantissa v s = { s with inMant := keepUnsigned w v } := by
  simp [writeMantissa, hw]

/-- R34, R41: an unbounded `IN_MANT` keeps a natural number whole. -/
theorem writeMantissa_unbounded {s : State} (hw : s.params.mantW = none) {v : Int} (hv : 0 ≤ v) :
    writeMantissa v s = { s with inMant := v.toNat } := by
  simp [writeMantissa, hw, Int.not_lt.mpr hv]

/-- Settles O53, register by register: the step is `writeRegister`, and each register reads the low bits it keeps. -/
theorem registerAccess : Obligations.RegisterAccess := by
  refine ⟨fun s r v rest hi => ⟨step_write_readOnly hi, ?fmtE, ?fmtM, ?fmtBias, ?inKind, ?inExp, ?inMant⟩,
    fun s r rest hi => step_read hi⟩
  case fmtE =>
    rintro rfl
    exact ⟨_, step_write_of_ne_ctrl hi (by decide), rfl, toNat_ofInt_eq_emod 32 v⟩
  case fmtM =>
    rintro rfl
    exact ⟨_, step_write_of_ne_ctrl hi (by decide), rfl, toNat_ofInt_eq_emod 32 v⟩
  case fmtBias =>
    rintro rfl
    exact ⟨_, step_write_of_ne_ctrl hi (by decide), rfl, keepSigned_reads s.params.biasW v⟩
  case inKind =>
    rintro rfl
    exact ⟨_, step_write_of_ne_ctrl hi (by decide), rfl, keepKind_ofInt_toNat v⟩
  case inExp =>
    rintro rfl
    exact ⟨_, step_write_of_ne_ctrl hi (by decide), rfl, keepSigned_reads s.params.expW v⟩
  case inMant =>
    rintro rfl
    have written : step s = .next (writeMantissa v { s with inputs := rest }) :=
      step_write_of_ne_ctrl hi (by decide)
    constructor
    · intro w hw
      rw [writeMantissa_bounded (s := { s with inputs := rest }) hw] at written
      exact ⟨_, written, rfl, keepUnsigned_eq_emod w v⟩
    · intro hw hv
      rw [writeMantissa_unbounded (s := { s with inputs := rest }) hw hv] at written
      exact ⟨_, written, rfl, Int.toNat_of_nonneg hv⟩

/-- Settles O55: the reserved numbers read 0, and they are among the numbers whose writes are ignored. -/
theorem reservedRegisters : Obligations.ReservedRegisters :=
  fun s _ _ _ hr => ⟨readRegister_reserved hr s, fun hi => step_write_readOnly hi (.inr (by omega))⟩

end Sys2Proof.Machine
end

section
/-!
PROOFS. What acceptance latches (R45), and that a running command reads the latched copies only: every operation of a
running command does the same whatever the operand registers hold.
-/
namespace Sys2Proof.Machine

/-! ## Acceptance (R90, R45) -/

/-- The state after the step that accepts a command; `SINIT` also completes in it (R119). -/
def accepted : Instr → State → State
  | .enc,   s => accept .enc false s
  | .dec,   s => accept .dec false s
  | .rdb,   s => accept .rdb false s
  | .wrb w, s => accept .wrb w s
  | .sinit, s => complete (writerInit (readerInit (accept .idle false s)))

/-- While `BUSY = 0` the step of a command is its acceptance. -/
theorem exec_of_not_busy {s : State} (hb : s.status.busy = false) (i : Instr) :
    exec i s = .next (accepted i s) := by
  cases i <;> simp [exec, execEnc, execDec, execRdb, execWrb, execSinit, accepted, hb]

@[simp] theorem accepted_lat (i : Instr) (s : State) : (accepted i s).lat = latchOperands (wbitOf i) s := by
  cases i <;> rfl

/-- R89: bit 4 of a command's word is its `WBIT`. -/
theorem encode_getLsbD_four (i : Instr) : (encode i).getLsbD 4 = wbitOf i := by
  cases i with
  | wrb w => cases w <;> rfl
  | enc | dec | rdb | sinit => rfl

/-! ## Operations that do not read the operand registers -/

/-- The operation answers the same for any other values in the operand registers, and leaves those values in place. -/
def IgnoresOperands (f : State → Out) : Prop :=
  ∀ (s : State) (o : OperandRegs), f (s.withOperands o) = mapNext (fun t => t.withOperands o) (f s)

/-- A branch on what is no operand register: both sides take the same one. -/
theorem ite_eq_mapNext {p q : Prop} [Decidable p] [Decidable q] {f : State → State} {a b a' b' : Out} (hpq : p ↔ q)
    (ha : p → a = mapNext f a') (hb : ¬p → b = mapNext f b') :
    (if p then a else b) = mapNext f (if q then a' else b') := by
  by_cases hp : p
  · rw [if_pos hp, if_pos (hpq.mp hp), ha hp]
  · rw [if_neg hp, if_neg (mt hpq.mpr hp), hb hp]

theorem deliverBit_ignoresOperands {cont : Bool → State → Out} (hc : ∀ b, IgnoresOperands (cont b)) :
    IgnoresOperands (deliverBit cont) := fun s o =>
  hc (s.rcur &&& s.rmask != 0) { s with rmask := s.rmask >>> 1 } o

theorem receiveSource_ignoresOperands {cont : Bool → State → Out} (hc : ∀ b, IgnoresOperands (cont b)) :
    IgnoresOperands (receiveSource cont) := by
  intro s o
  simp only [receiveSource, withOperands_source]
  split
  · rfl
  · rfl
  · rename_i b rest _
    exact deliverBit_ignoresOperands hc (sourceAnswered b rest s) o

theorem readBit_ignoresOperands {cont : Bool → State → Out} (hc : ∀ b, IgnoresOperands (cont b)) :
    IgnoresOperands (readBit cont) := by
  intro s o
  simp only [readBit, withOperands_pend]
  split
  · exact receiveSource_ignoresOperands hc s o
  · rfl
  · exact ite_eq_mapNext .rfl (fun _ => rfl) (fun _ => deliverBit_ignoresOperands hc s o)

theorem receiveSink_ignoresOperands {cont : State → Out} (hc : IgnoresOperands cont) (out : Byte) :
    IgnoresOperands (receiveSink cont out) := by
  intro s o
  simp only [receiveSink, withOperands_sink]
  split
  · rfl
  · rfl
  · rename_i rest _
    exact hc (sinkAnswered out rest s) o

theorem writeBit_ignoresOperands (b : Bool) {cont : State → Out} (hc : IgnoresOperands cont) :
    IgnoresOperands (writeBit b cont) := by
  intro s o
  simp only [writeBit, withOperands_pend]
  split
  · rename_i out _
    exact receiveSink_ignoresOperands hc out s o
  · rfl
  · exact ite_eq_mapNext .rfl (fun _ => rfl)
      (fun _ => hc { s with wacc := accumulate b s, wmask := s.wmask >>> 1 } o)

/-! ## The running commands -/

theorem decFinish_ignoresOperands : IgnoresOperands decFinish := fun _ _ =>
  ite_eq_mapNext .rfl (fun _ => rfl) (fun _ => rfl)

theorem decAdvance_ignoresOperands (b : Bool) : IgnoresOperands (decAdvance b) := fun s o =>
  ite_eq_mapNext .rfl (fun _ => rfl)
    (fun _ => decFinish_ignoresOperands { s with buf := s.buf ++ [b], k := s.k + 1 } o)

theorem decRead_ignoresOperands : IgnoresOperands decRead := readBit_ignoresOperands decAdvance_ignoresOperands

theorem decOpen_ignoresOperands : IgnoresOperands decOpen := by
  intro s o
  simp only [decOpen, withOperands_params, withOperands_lat]
  split
  · rfl
  · exact decRead_ignoresOperands { readerInit s with buf := [], k := 0, opened := true } o

theorem encAdvance_ignoresOperands : IgnoresOperands encAdvance := fun _ _ =>
  ite_eq_mapNext .rfl (fun _ => rfl) (fun _ => rfl)

theorem encWrite_ignoresOperands : IgnoresOperands encWrite := fun s o =>
  writeBit_ignoresOperands (s.buf.getD s.k false) encAdvance_ignoresOperands s o

theorem encOpen_ignoresOperands : IgnoresOperands encOpen := by
  intro s o
  simp only [encOpen, withOperands_params, withOperands_lat]
  split
  · rfl
  · rename_i bits _
    exact encWrite_ignoresOperands (writerInit { s with buf := bits, k := 0, opened := true }) o

theorem rdbDeliver_ignoresOperands (b : Bool) : IgnoresOperands (rdbDeliver b) := fun _ _ => rfl

theorem rdbRun_ignoresOperands : IgnoresOperands rdbRun := fun s o =>
  ite_eq_mapNext .rfl (fun _ => rfl) (fun _ => readBit_ignoresOperands rdbDeliver_ignoresOperands s o)

theorem completing_ignoresOperands : IgnoresOperands (fun t => .next (complete t)) := fun _ _ => rfl

theorem wrbRun_ignoresOperands : IgnoresOperands wrbRun := fun s o =>
  ite_eq_mapNext .rfl (fun _ => rfl) (fun _ => writeBit_ignoresOperands s.lat.wbit completing_ignoresOperands s o)

/-- R45: while `BUSY = 1` no command reads the operand registers. -/
theorem exec_of_busy_ignores_operands {s : State} (hb : s.status.busy = true) (i : Instr) (o : OperandRegs) :
    exec i (s.withOperands o) = mapNext (fun t => t.withOperands o) (exec i s) := by
  cases i with
  | enc =>
    exact ite_eq_mapNext .rfl (ha := fun _ => ite_eq_mapNext .rfl
      (fun _ => ite_eq_mapNext .rfl (fun _ => encWrite_ignoresOperands s o) (fun _ => encOpen_ignoresOperands s o))
      (fun _ => rfl)) (hb := fun idle => absurd hb idle)
  | dec =>
    exact ite_eq_mapNext .rfl (ha := fun _ => ite_eq_mapNext .rfl
      (fun _ => ite_eq_mapNext .rfl (fun _ => decRead_ignoresOperands s o) (fun _ => decOpen_ignoresOperands s o))
      (fun _ => rfl)) (hb := fun idle => absurd hb idle)
  | rdb =>
    exact ite_eq_mapNext .rfl
      (ha := fun _ => ite_eq_mapNext .rfl (fun _ => rdbRun_ignoresOperands s o) (fun _ => rfl))
      (hb := fun idle => absurd hb idle)
  | wrb w =>
    exact ite_eq_mapNext .rfl
      (ha := fun _ => ite_eq_mapNext .rfl (fun _ => wrbRun_ignoresOperands s o) (fun _ => rfl))
      (hb := fun idle => absurd hb idle)
  | sinit => exact ite_eq_mapNext .rfl (ha := fun _ => rfl) (hb := fun idle => absurd hb idle)

/-- Settles O7: acceptance is one step that latches, and every operation of a running command ignores the operand
registers. -/
theorem operandsAreLatchedAtAcceptance : Obligations.OperandsAreLatchedAtAcceptance := by
  refine ⟨fun i s hb => ⟨accepted i s, exec_of_not_busy hb i, ?_⟩,
    fun i _ o hb => exec_of_busy_ignores_operands hb i o⟩
  rw [accepted_lat, encode_getLsbD_four]
  rfl

end Sys2Proof.Machine
end

section
/-!
PROOFS. The sticky failure flags (R28). One inversion per operation says what a step can do to `RFAIL` and `WFAIL`:
keep them, set one by a failed transaction, or clear one by an initialisation. The obligation reads it off.
-/
namespace Sys2Proof.Machine

/-- The reader's flag after a step: as before, or set by a failed fetch (R112). -/
def ReaderFlagSticks (s t : State) : Prop :=
  t.status.rfail = s.status.rfail ∨ (t.status.rfail = true ∧ s.pend = .src ∧ ∃ rest, s.source = .fail :: rest)

/-- The writer's flag after a step: as before, or set by a failed send (R114). -/
def WriterFlagSticks (s t : State) : Prop :=
  t.status.wfail = s.status.wfail ∨
    (t.status.wfail = true ∧ (∃ b, s.pend = .snk b) ∧ ∃ rest, s.sink = .fail :: rest)

/-- Neither flag is cleared, and one is set by a failed transaction of its own port only. -/
def FlagsStick (s t : State) : Prop := ReaderFlagSticks s t ∧ WriterFlagSticks s t

/-- Neither flag changes. -/
def FlagsKept (s t : State) : Prop := t.status.rfail = s.status.rfail ∧ t.status.wfail = s.status.wfail

theorem FlagsKept.stick {s t : State} (h : FlagsKept s t) : FlagsStick s t := ⟨.inl h.1, .inl h.2⟩

theorem FlagsStick.refl (s : State) : FlagsStick s s := ⟨.inl rfl, .inl rfl⟩

/-! ## The bit primitives and what the commands do with a bit -/

/-- `readBit` lets the flags be but for a failed fetch. -/
theorem readBit_flagsStick {cont : Bool → State → Out}
    (hc : ∀ b u t, cont b u = .next t → FlagsKept u t) {s t : State} (h : readBit cont s = .next t) :
    FlagsStick s t := by
  rcases readBit_cases h with ⟨_, rfl⟩ | ⟨_, _, rfl⟩ | ⟨_, _, h⟩ | ⟨rest, hp, hs, rfl⟩ | ⟨b, rest, _, _, h⟩
  case inl => exact .refl _
  case inr.inl => exact FlagsKept.stick ⟨rfl, rfl⟩
  case inr.inr.inl =>
    obtain ⟨reader, writer⟩ := hc _ _ _ h
    exact ⟨.inl reader, .inl writer⟩
  case inr.inr.inr.inl => exact ⟨.inr ⟨rfl, hp, rest, hs⟩, .inl rfl⟩
  case inr.inr.inr.inr =>
    obtain ⟨reader, writer⟩ := hc _ _ _ h
    exact ⟨.inl reader, .inl writer⟩

/-- `writeBit` lets the flags be but for a failed send. -/
theorem writeBit_flagsStick {bit : Bool} {cont : State → Out}
    (hc : ∀ u t, cont u = .next t → FlagsKept u t) {s t : State} (h : writeBit bit cont s = .next t) :
    FlagsStick s t := by
  rcases writeBit_cases h with ⟨_, rfl⟩ | ⟨_, _, rfl⟩ | ⟨_, _, h⟩ | ⟨b, rest, hp, hs, rfl⟩ | ⟨b, rest, _, _, h⟩
  case inl => exact .refl _
  case inr.inl => exact FlagsKept.stick ⟨rfl, rfl⟩
  case inr.inr.inl =>
    obtain ⟨reader, writer⟩ := hc _ _ h
    exact ⟨.inl reader, .inl writer⟩
  case inr.inr.inr.inl => exact ⟨.inl rfl, .inr ⟨rfl, ⟨b, hp⟩, rest, hs⟩⟩
  case inr.inr.inr.inr =>
    obtain ⟨reader, writer⟩ := hc _ _ h
    exact ⟨.inl reader, .inl writer⟩

theorem decAdvance_flagsKept {b : Bool} {s t : State} (h : decAdvance b s = .next t) : FlagsKept s t := by
  rcases decAdvance_cases h with ⟨_, rfl⟩ | ⟨_, rfl⟩ <;> exact ⟨rfl, rfl⟩

theorem encAdvance_flagsKept {s t : State} (h : encAdvance s = .next t) : FlagsKept s t := by
  rcases encAdvance_cases h with ⟨_, rfl⟩ | ⟨_, rfl⟩ <;> exact ⟨rfl, rfl⟩

theorem rdbDeliver_flagsKept {b : Bool} {s t : State} (h : rdbDeliver b s = .next t) : FlagsKept s t := by
  cases h
  exact ⟨rfl, rfl⟩

theorem completing_flagsKept {s t : State} (h : Host.Outcome.next (complete s) = (.next t : Out)) : FlagsKept s t := by
  cases h
  exact ⟨rfl, rfl⟩

/-! ## The first bit of `DEC` and `ENC` is not the last -/

theorem decAdvance_opened {b : Bool} {s t : State} (h : decAdvance b s = .next t)
    (hk : s.k + 1 < s.lat.descriptor.n) : t.opened = s.opened := by
  rcases decAdvance_cases h with ⟨_, rfl⟩ | ⟨last, _⟩
  · rfl
  · omega

theorem encAdvance_opened {s t : State} (h : encAdvance s = .next t) (hk : s.k + 1 < s.lat.descriptor.n) :
    t.opened = s.opened := by
  rcases encAdvance_cases h with ⟨_, rfl⟩ | ⟨last, _⟩
  · rfl
  · omega

/-- A bit read before the last leaves `DEC` set up, unless the fetch fails. -/
theorem decRead_opened {s t : State} (h : decRead s = .next t) (hk : s.k + 1 < s.lat.descriptor.n) :
    t.opened = s.opened ∨ t.status.rfail = true := by
  rcases readBit_cases h with ⟨_, rfl⟩ | ⟨_, _, rfl⟩ | ⟨_, _, h⟩ | ⟨_, _, _, rfl⟩ | ⟨_, _, _, _, h⟩
  case inl => exact .inl rfl
  case inr.inl => exact .inl rfl
  case inr.inr.inl =>
    have kept := decAdvance_opened h hk
    exact .inl kept
  case inr.inr.inr.inl => exact .inr rfl
  case inr.inr.inr.inr =>
    have kept := decAdvance_opened h hk
    exact .inl kept

/-- A bit written before the last leaves `ENC` set up, unless the send fails. -/
theorem encWrite_opened {s t : State} (h : encWrite s = .next t) (hk : s.k + 1 < s.lat.descriptor.n) :
    t.opened = s.opened ∨ t.status.wfail = true := by
  rcases writeBit_cases h with ⟨_, rfl⟩ | ⟨_, _, rfl⟩ | ⟨_, _, h⟩ | ⟨_, _, _, _, rfl⟩ | ⟨_, _, _, _, h⟩
  case inl => exact .inl rfl
  case inr.inl => exact .inl rfl
  case inr.inr.inl =>
    have kept := encAdvance_opened h hk
    exact .inl kept
  case inr.inr.inr.inl => exact .inr rfl
  case inr.inr.inr.inr =>
    have kept := encAdvance_opened h hk
    exact .inl kept

/-- The first step of `DEC`: its checks fail, or it initialises the reader and is set up, or its first fetch fails. -/
theorem decOpen_flags {s t : State} (h : decOpen s = .next t) :
    FlagsStick s t ∨ (WriterFlagSticks s t ∧ t.status.rfail = false ∧ t.opened = true) := by
  unfold decOpen at h
  split at h
  · cases h
    exact .inl (FlagsKept.stick ⟨rfl, rfl⟩)
  · rename_i checked
    have notLast : 0 + 1 < s.lat.descriptor.n := by
      have := eight_le_of_checkFormat checked
      omega
    have setUp := decRead_opened h notLast
    obtain ⟨cleared | failed, writer⟩ := readBit_flagsStick (fun _ _ _ => decAdvance_flagsKept) h
    · have cleared : t.status.rfail = false := cleared
      exact .inr ⟨writer, cleared, setUp.resolve_right (by simp [cleared])⟩
    · exact .inl ⟨.inr failed, writer⟩

/-- The first step of `ENC`: its checks fail, or it initialises the writer and is set up, or its first send fails. -/
theorem encOpen_flags {s t : State} (h : encOpen s = .next t) :
    FlagsStick s t ∨ (ReaderFlagSticks s t ∧ t.status.wfail = false ∧ t.opened = true) := by
  unfold encOpen at h
  split at h
  · cases h
    exact .inl (FlagsKept.stick ⟨rfl, rfl⟩)
  · rename_i bits prepared
    have notLast : 0 + 1 < s.lat.descriptor.n := by
      have := eight_le_of_checkFormat (encPrepare_ok prepared).1
      omega
    have setUp := encWrite_opened h notLast
    obtain ⟨reader, cleared | failed⟩ := writeBit_flagsStick (fun _ _ => encAdvance_flagsKept) h
    · have cleared : t.status.wfail = false := cleared
      exact .inr ⟨reader, cleared, setUp.resolve_right (by simp [cleared])⟩
    · exact .inl ⟨reader, .inr failed⟩

/-! ## The steps of the running commands -/

theorem execDec_running {s : State} (hb : s.status.busy = true) (hp : s.phase = .dec) :
    execDec s = if s.opened then decRead s else decOpen s := by
  simp [execDec, hb, hp]

theorem execEnc_running {s : State} (hb : s.status.busy = true) (hp : s.phase = .enc) :
    execEnc s = if s.opened then encWrite s else encOpen s := by
  simp [execEnc, hb, hp]

theorem execRdb_running {s : State} (hb : s.status.busy = true) (hp : s.phase = .rdb) : execRdb s = rdbRun s := by
  simp [execRdb, hb, hp]

theorem execWrb_running {s : State} (hb : s.status.busy = true) (hp : s.phase = .wrb) (w : Bool) :
    execWrb w s = wrbRun s := by
  simp [execWrb, hb, hp]

theorem rdbRun_flagsStick {s t : State} (h : rdbRun s = .next t) : FlagsStick s t := by
  unfold rdbRun at h
  split at h
  · cases h
    exact FlagsKept.stick ⟨rfl, rfl⟩
  · exact readBit_flagsStick (fun _ _ _ => rdbDeliver_flagsKept) h

theorem wrbRun_flagsStick {s t : State} (h : wrbRun s = .next t) : FlagsStick s t := by
  unfold wrbRun at h
  split at h
  · cases h
    exact FlagsKept.stick ⟨rfl, rfl⟩
  · exact writeBit_flagsStick (fun _ _ => completing_flagsKept) h

/-- The step in which a running `DEC` passes its checks and initialises the reader. -/
def DecSetUp (s t : State) : Prop :=
  s.status.busy = true ∧ s.phase = .dec ∧ s.opened = false ∧ t.opened = true

/-- The step in which a running `ENC` passes its checks and initialises the writer. -/
def EncSetUp (s t : State) : Prop :=
  s.status.busy = true ∧ s.phase = .enc ∧ s.opened = false ∧ t.opened = true

/-- What the block's own move does to the flags: it clears one only where `DEC` or `ENC` is set up. -/
theorem blockStep_flags {s t : State} (h : blockStep s = .next t) :
    (ReaderFlagSticks s t ∨ (t.status.rfail = false ∧ DecSetUp s t)) ∧
    (WriterFlagSticks s t ∨ (t.status.wfail = false ∧ EncSetUp s t)) := by
  rcases blockStep_cases h with ⟨_, rfl⟩ | ⟨hb, hp, h⟩ | ⟨hb, hp, h⟩ | ⟨hb, hp, h⟩ | ⟨hb, hp, h⟩
  case inl => exact ⟨.inl (.inl rfl), .inl (.inl rfl)⟩
  case inr.inl =>
    rw [execEnc_running hb hp] at h
    split at h
    · obtain ⟨reader, writer⟩ := writeBit_flagsStick (fun _ _ => encAdvance_flagsKept) h
      exact ⟨.inl reader, .inl writer⟩
    · rename_i ho
      obtain ⟨reader, writer⟩ | ⟨reader, cleared, opened⟩ := encOpen_flags h
      · exact ⟨.inl reader, .inl writer⟩
      · exact ⟨.inl reader, .inr ⟨cleared, hb, hp, by simpa using ho, opened⟩⟩
  case inr.inr.inl =>
    rw [execDec_running hb hp] at h
    split at h
    · obtain ⟨reader, writer⟩ := readBit_flagsStick (fun _ _ _ => decAdvance_flagsKept) h
      exact ⟨.inl reader, .inl writer⟩
    · rename_i ho
      obtain ⟨reader, writer⟩ | ⟨writer, cleared, opened⟩ := decOpen_flags h
      · exact ⟨.inl reader, .inl writer⟩
      · exact ⟨.inr ⟨cleared, hb, hp, by simpa using ho, opened⟩, .inl writer⟩
  case inr.inr.inr.inl =>
    obtain ⟨reader, writer⟩ := rdbRun_flagsStick (execRdb_running hb hp ▸ h)
    exact ⟨.inl reader, .inl writer⟩
  case inr.inr.inr.inr =>
    obtain ⟨reader, writer⟩ := wrbRun_flagsStick (execWrb_running hb hp s.lat.wbit ▸ h)
    exact ⟨.inl reader, .inl writer⟩

/-! ## Every step of the machine -/

/-- Acceptance of any command but `SINIT` lets both flags be; `SINIT` clears both (R119). -/
theorem accepted_flags (i : Instr) (s : State) :
    FlagsKept s (accepted i s) ∨
      (i = .sinit ∧ (accepted i s).status.rfail = false ∧ (accepted i s).status.wfail = false) := by
  cases i with
  | sinit => exact .inr ⟨rfl, rfl, rfl⟩
  | enc | dec | rdb | wrb => exact .inl ⟨rfl, rfl⟩

/-- A host write clears the flags only where it is an accepted `SINIT`, and sets none. -/
theorem hostWrite_flags {r : RegNo} {v : Int} {s t : State} (h : hostWrite r v s = .next t) :
    FlagsKept s t ∨ (t.status.rfail = false ∧ t.status.wfail = false ∧
      r = 0x0 ∧ decode (BitVec.ofInt 8 v) = .ok .sinit ∧ s.status.busy = false) := by
  rcases hostWrite_cases h with ⟨_, _, rfl⟩ | ⟨hr, hb, i, hd, h⟩ | ⟨_, _, _, rfl⟩ | ⟨_, rfl⟩
  case inl => exact .inl ⟨rfl, rfl⟩
  case inr.inl =>
    rw [exec_of_not_busy hb] at h
    cases h
    rcases accepted_flags i s with kept | ⟨rfl, rfail, wfail⟩
    · exact .inl kept
    · exact .inr ⟨rfail, wfail, hr, hd, hb⟩
  case inr.inr.inl => exact .inl ⟨rfl, rfl⟩
  case inr.inr.inr => exact .inl (by simp [FlagsKept])

/-- R28: what a step does to `RFAIL`. -/
theorem step_rfail_cases {s t : State} (h : step s = .next t) :
    ReaderFlagSticks s t ∨ (t.status.rfail = false ∧
      (ResetNext s ∨ (CommandNext s .sinit ∧ s.status.busy = false) ∨ DecSetUp s t)) := by
  rcases step_cases h with ⟨c, rest, hi, rfl⟩ | ⟨r, v, rest, hi, h⟩ | ⟨_, _, _, rfl⟩ | ⟨_, _, _, rfl⟩ | ⟨rest, _, h⟩
  case inl => exact .inr ⟨rfl, .inl ⟨c, rest, hi⟩⟩
  case inr.inl =>
    rcases hostWrite_flags h with ⟨kept, _⟩ | ⟨cleared, _, rfl, hd, hb⟩
    · exact .inl (.inl kept)
    · exact .inr ⟨cleared, .inr (.inl ⟨⟨v, rest, hi, hd⟩, hb⟩)⟩
  case inr.inr.inl => exact .inl (.inl rfl)
  case inr.inr.inr.inl => exact .inl (.inl rfl)
  case inr.inr.inr.inr =>
    obtain ⟨sticks | ⟨cleared, setUp⟩, _⟩ := blockStep_flags h
    · exact .inl sticks
    · exact .inr ⟨cleared, .inr (.inr setUp)⟩

/-- R28: what a step does to `WFAIL`. -/
theorem step_wfail_cases {s t : State} (h : step s = .next t) :
    WriterFlagSticks s t ∨ (t.status.wfail = false ∧
      (ResetNext s ∨ (CommandNext s .sinit ∧ s.status.busy = false) ∨ EncSetUp s t)) := by
  rcases step_cases h with ⟨c, rest, hi, rfl⟩ | ⟨r, v, rest, hi, h⟩ | ⟨_, _, _, rfl⟩ | ⟨_, _, _, rfl⟩ | ⟨rest, _, h⟩
  case inl => exact .inr ⟨rfl, .inl ⟨c, rest, hi⟩⟩
  case inr.inl =>
    rcases hostWrite_flags h with ⟨_, kept⟩ | ⟨_, cleared, rfl, hd, hb⟩
    · exact .inl (.inl kept)
    · exact .inr ⟨cleared, .inr (.inl ⟨⟨v, rest, hi, hd⟩, hb⟩)⟩
  case inr.inr.inl => exact .inl (.inl rfl)
  case inr.inr.inr.inl => exact .inl (.inl rfl)
  case inr.inr.inr.inr =>
    obtain ⟨_, sticks | ⟨cleared, setUp⟩⟩ := blockStep_flags h
    · exact .inl sticks
    · exact .inr ⟨cleared, .inr (.inr setUp)⟩

/-! ## A failed transaction sets the flag, a set flag refuses the stream commands -/

theorem readBit_failed {cont : Bool → State → Out} {s : State} {rest : List SrcAnswer} (hp : s.pend = .src)
    (hs : s.source = .fail :: rest) : readBit cont s = .next (sourceFailed rest s) := by
  simp [readBit, receiveSource, hp, hs, sourceFailed]

theorem writeBit_failed {bit : Bool} {cont : State → Out} {s : State} {b : Byte} {rest : List SnkAnswer}
    (hp : s.pend = .snk b) (hs : s.sink = .fail :: rest) : writeBit bit cont s = .next (sinkFailed rest s) := by
  simp [writeBit, receiveSink, hp, hs, sinkFailed]

/-- R112: whichever command waits for the source, a failed fetch is what it ends with. -/
theorem exec_sourceFailed {s : State} {i : Instr} {rest : List SrcAnswer} (inv : ControlInv s)
    (hb : s.status.busy = true) (hr : runningCommand s = some i) (hp : s.pend = .src)
    (hs : s.source = .fail :: rest) : exec i s = .next (sourceFailed rest s) := by
  rcases (inv.pend_src hp).1 with ⟨phase, opened⟩ | phase
  · obtain rfl : Instr.dec = i := by simpa [runningCommand, phase] using hr
    rw [exec, execDec_running hb phase, if_pos opened]
    exact readBit_failed hp hs
  · obtain rfl : Instr.rdb = i := by simpa [runningCommand, phase] using hr
    rw [exec, execRdb_running hb phase, rdbRun, if_neg (by simp [hp])]
    exact readBit_failed hp hs

/-- R114: whichever command waits for the sink, a failed send is what it ends with. -/
theorem exec_sinkFailed {s : State} {i : Instr} {b : Byte} {rest : List SnkAnswer} (inv : ControlInv s)
    (hb : s.status.busy = true) (hr : runningCommand s = some i) (hp : s.pend = .snk b)
    (hs : s.sink = .fail :: rest) : exec i s = .next (sinkFailed rest s) := by
  rcases (inv.pend_snk b hp).1 with ⟨phase, opened⟩ | phase
  · obtain rfl : Instr.enc = i := by simpa [runningCommand, phase] using hr
    rw [exec, execEnc_running hb phase, if_pos opened]
    exact writeBit_failed hp hs
  · obtain rfl : Instr.wrb s.lat.wbit = i := by simpa [runningCommand, phase] using hr
    rw [exec, execWrb_running hb phase, wrbRun, if_neg (by simp [hp])]
    exact writeBit_failed hp hs

/-- R28, R117: a set `RFAIL` ends `RDB` with `IOFailure`. -/
theorem exec_rdb_of_rfail {s : State} (hb : s.status.busy = true) (phase : s.phase = .rdb) (hp : s.pend = .none)
    (hf : s.status.rfail = true) : exec .rdb s = .next (raise .ioFailure s) := by
  rw [exec, execRdb_running hb phase, rdbRun, if_pos ⟨hp, hf⟩]

/-- R28, R118: a set `WFAIL` ends `WRB` with `IOFailure`. -/
theorem exec_wrb_of_wfail {s : State} (w : Bool) (hb : s.status.busy = true) (phase : s.phase = .wrb)
    (hp : s.pend = .none) (hf : s.status.wfail = true) : exec (.wrb w) s = .next (raise .ioFailure s) := by
  rw [exec, execWrb_running hb phase, wrbRun, if_pos ⟨hp, hf⟩]

/-- Settles O45: the flags' changes are read off `step_rfail_cases` and `step_wfail_cases`. -/
theorem failureFlagsAreSticky : Obligations.FailureFlagsAreSticky := by
  refine ⟨rfl, rfl, ?rfailSet, ?wfailSet, ?rfailCleared, ?wfailCleared, ?fetchFails, ?sendFails, ?rdbRefused,
    ?wrbRefused⟩
  case rfailSet =>
    intro s t h hs ht
    rcases step_rfail_cases h with (kept | ⟨_, failed⟩) | ⟨cleared, _⟩
    · simp [kept, hs] at ht
    · exact failed
    · simp [cleared] at ht
  case wfailSet =>
    intro s t h hs ht
    rcases step_wfail_cases h with (kept | ⟨_, failed⟩) | ⟨cleared, _⟩
    · simp [kept, hs] at ht
    · exact failed
    · simp [cleared] at ht
  case rfailCleared =>
    intro s t h hs ht
    rcases step_rfail_cases h with (kept | ⟨raised, _⟩) | ⟨_, cause⟩
    · simp [kept, hs] at ht
    · simp [raised] at ht
    · exact cause
  case wfailCleared =>
    intro s t h hs ht
    rcases step_wfail_cases h with (kept | ⟨raised, _⟩) | ⟨_, cause⟩
    · simp [kept, hs] at ht
    · simp [raised] at ht
    · exact cause
  case fetchFails =>
    intro s i rest inv hb hr hp hs
    exact ⟨_, exec_sourceFailed inv.control hb hr hp hs, rfl⟩
  case sendFails =>
    intro s i b rest inv hb hr hp hs
    exact ⟨_, exec_sinkFailed inv.control hb hr hp hs, rfl⟩
  case rdbRefused =>
    intro s hb phase hp hf
    exact ⟨_, exec_rdb_of_rfail hb phase hp hf, rfl, hf, hp, rfl, rfl⟩
  case wrbRefused =>
    intro s w hb phase hp hf
    exact ⟨_, exec_wrb_of_wfail w hb phase hp hf, rfl, hf, hp, rfl, rfl⟩

end Sys2Proof.Machine
end

section
/-!
PROOFS. The order of the bits within a byte (R63): what a mask that stands at one bit reads, sets and becomes (R110,
R113), and one step of a running `RDB` and `WRB` in those terms.
-/
namespace Sys2Proof.Machine
open BitVec (twoPow)

/-! ## A mask that stands at one bit -/

theorem twoPow_ne_zero {w j : Nat} (hj : j < w) : twoPow w j ≠ 0#w := fun h => by
  simpa [hj] using congrArg (·.getLsbD j) h

/-- The mask's move to the right: to the next lower bit, or out of the byte from bit 0. -/
theorem twoPow_ushiftRight_one {w j : Nat} (hj : j < w) :
    twoPow w j >>> 1 = if j = 0 then 0#w else twoPow w (j - 1) := by
  refine BitVec.eq_of_getLsbD_eq fun i _ => ?_
  rw [BitVec.getLsbD_ushiftRight, BitVec.getLsbD_twoPow]
  split
  · have none : j ≠ 1 + i := by omega
    simp [none]
  · have lower : j - 1 < w := by omega
    have moved : j = 1 + i ↔ j - 1 = i := by omega
    simp [BitVec.getLsbD_twoPow, hj, lower, moved]

/-- Reading through the mask is reading the bit it stands at. -/
theorem and_twoPow_bne_zero {w j : Nat} (x : BitVec w) (hj : j < w) :
    (x &&& twoPow w j != 0#w) = x.getLsbD j := by
  rw [BitVec.and_twoPow]
  cases x.getLsbD j <;> simp [twoPow_ne_zero hj]

/-- R113: the bit comes to stand where `WMASK` stands, and no other bit of `WACC` changes. -/
theorem accumulate_getLsbD {s : State} {j : Nat} (b : Bool) (hj : j < 8) (hm : s.wmask = twoPow 8 j)
    (clear : s.wacc.getLsbD j = false) (i : Nat) :
    (accumulate b s).getLsbD i = if i = j then b else s.wacc.getLsbD i := by
  unfold accumulate
  by_cases hi : i = j
  · subst hi
    cases b
    · simpa using clear
    · simp [hm, hj]
  · cases b
    · simp [hi]
    · simp [hm, BitVec.getLsbD_twoPow, hi, Ne.symm hi]

/-! ## The adapters' steps, by the bit the mask stands at -/

theorem deliverBit_at {cont : Bool → State → Out} {s : State} {j : Nat} (hj : j < 8) (hm : s.rmask = twoPow 8 j) :
    deliverBit cont s =
      cont (s.rcur.getLsbD j) { s with rmask := if j = 0 then 0x00 else twoPow 8 (j - 1) } := by
  have read : (s.rcur &&& twoPow 8 j != 0) = s.rcur.getLsbD j := and_twoPow_bne_zero s.rcur hj
  rw [deliverBit, hm, read, twoPow_ushiftRight_one hj]
  rfl

/-- R110: a bit of the byte in hand. -/
theorem readBit_inHand {cont : Bool → State → Out} {s : State} {j : Nat} (hp : s.pend = .none) (hj : j < 8)
    (hm : s.rmask = twoPow 8 j) :
    readBit cont s = cont (s.rcur.getLsbD j) { s with rmask := if j = 0 then 0x00 else twoPow 8 (j - 1) } := by
  have inHand : s.rmask ≠ 0x00 := hm ▸ twoPow_ne_zero hj
  calc readBit cont s
    _ = deliverBit cont s := by rw [readBit, hp]; exact if_neg inHand
    _ = _ := deliverBit_at hj hm

/-- R61, R110: a fetched byte delivers its bit 7. -/
theorem readBit_answered {cont : Bool → State → Out} {s : State} {b : Byte} {rest : List SrcAnswer}
    (hp : s.pend = .src) (hs : s.source = .ok b :: rest) :
    readBit cont s = cont (b.getLsbD 7) { sourceAnswered b rest s with rmask := twoPow 8 6 } := by
  have atBit7 : (sourceAnswered b rest s).rmask = twoPow 8 7 := rfl
  simp only [readBit, hp, receiveSource, hs]
  exact deliverBit_at (by decide) atBit7

/-- R113: a bit that does not complete a byte. -/
theorem writeBit_above_zero {b : Bool} {cont : State → Out} {s : State} {j : Nat} (hp : s.pend = .none) (hj : j < 8)
    (pos : 1 ≤ j) (hm : s.wmask = twoPow 8 j) :
    writeBit b cont s = cont { s with wacc := accumulate b s, wmask := twoPow 8 (j - 1) } := by
  have shifted : s.wmask >>> 1 = twoPow 8 (j - 1) := by
    rw [hm, twoPow_ushiftRight_one hj, if_neg (by omega)]
  simp [writeBit, hp, shifted, twoPow_ne_zero (show j - 1 < 8 by omega)]

/-- R113: the bit that completes a byte. -/
theorem writeBit_at_zero {b : Bool} {cont : State → Out} {s : State} (hp : s.pend = .none)
    (hm : s.wmask = twoPow 8 0) :
    writeBit b cont s = .next { s with wacc := 0x00, wmask := 0x80, pend := .snk (accumulate b s) } := by
  have shifted : s.wmask >>> 1 = 0x00 := by rw [hm]; decide
  simp [writeBit, hp, shifted]

/-! ## The stream commands, when no failure flag refuses them -/

theorem exec_rdb_of_not_refused {s : State} (hb : s.status.busy = true) (phase : s.phase = .rdb)
    (notRefused : ¬(s.pend = .none ∧ s.status.rfail)) : exec .rdb s = readBit rdbDeliver s := by
  rw [exec, execRdb_running hb phase, rdbRun, if_neg notRefused]

theorem exec_wrb_of_not_refused {s : State} (w : Bool) (hb : s.status.busy = true) (phase : s.phase = .wrb)
    (notRefused : ¬(s.pend = .none ∧ s.status.wfail)) :
    exec (.wrb w) s = writeBit s.lat.wbit (fun t => .next (complete t)) s := by
  rw [exec, execWrb_running hb phase, wrbRun, if_neg notRefused]

/-- Settles O11: each clause is one step of an adapter, at the bit its mask stands at. -/
theorem bitOrderIsMsbFirst : Obligations.BitOrderIsMsbFirst := by
  refine ⟨?readInHand, ?readFetched, ?write⟩
  case readInHand =>
    intro s j hb phase hp hf hj hm
    rw [exec_rdb_of_not_refused hb phase (by simp [hf]), readBit_inHand hp hj hm]
    exact ⟨_, rfl, rfl, rfl, rfl⟩
  case readFetched =>
    intro s b rest hb phase hp hs
    rw [exec_rdb_of_not_refused hb phase (by simp [hp]), readBit_answered hp hs]
    exact ⟨_, rfl, rfl, rfl, rfl⟩
  case write =>
    intro s w j hb phase hp hf hj hm clear
    have bitAt := accumulate_getLsbD s.lat.wbit hj hm clear
    rw [exec_wrb_of_not_refused w hb phase (by simp [hf])]
    rcases Nat.eq_zero_or_pos j with rfl | pos
    · rw [writeBit_at_zero hp hm]
      refine ⟨_, rfl, by simp, fun _ => ⟨rfl, rfl, _, rfl, ?_, fun i hi => ?_⟩⟩
      · rw [bitAt, if_pos rfl]
      · rw [bitAt, if_neg hi]
    · rw [writeBit_above_zero hp hj pos hm]
      refine ⟨_, rfl, fun _ => ⟨rfl, ?_, fun i hi => ?_⟩, by omega⟩
      · exact (bitAt j).trans (if_pos rfl)
      · exact (bitAt i).trans (if_neg hi)

end Sys2Proof.Machine
end

section
/-!
PROOFS. The decoder's illegal words (R91) and the step of a host write of one (R187).
-/
namespace Sys2Proof.Machine

/-! ## Which words are illegal (R91) -/

/-- R90: the words without reserved bits and with `OP` other than `WRB`'s are legal when `WBIT` is 0 and `OP` is
assigned. -/
theorem decode_isError_of_op_ne_wrb {v : Byte} (reserved : ctrlReserved v = 0) (notWrb : ctrlOp v ≠ 4) :
    (∃ e, decode v = .error e) ↔ ctrlWbit v = true ∨ ctrlOp v = 0 ∨ 6 ≤ (ctrlOp v).toNat := by
  have ops : ∀ op : BitVec 4, op ≠ 4 → (op = 0 ∨ 6 ≤ op.toNat ↔ op ≠ 1 ∧ op ≠ 2 ∧ op ≠ 3 ∧ op ≠ 5) := by decide
  rw [ops _ notWrb]
  unfold decode
  rw [if_neg (by simp [reserved]), if_neg notWrb]
  split_ifs <;> simp_all

/-- R91: the three kinds of illegal words, in the order of the decoder's tests. -/
theorem decode_isError_iff (v : Byte) :
    (∃ e, decode v = .error e) ↔
      (ctrlOp v = 0 ∨ 6 ≤ (ctrlOp v).toNat ∨ ctrlReserved v ≠ 0 ∨ (ctrlWbit v = true ∧ ctrlOp v ≠ 4)) := by
  by_cases reserved : ctrlReserved v = 0
  · by_cases wrb : ctrlOp v = 4
    · have legal : decode v = .ok (.wrb (ctrlWbit v)) := by
        rw [decode, if_neg (not_not.mpr reserved), if_pos wrb]
      simp [legal, wrb, reserved]
    · rw [decode_isError_of_op_ne_wrb reserved wrb]
      simp only [reserved, wrb, ne_eq, not_true, not_false_iff, and_true, false_or]
      tauto
  · have illegal : decode v = .error .reservedBits := by rw [decode, if_pos reserved]
    exact iff_of_true ⟨_, illegal⟩ (.inr (.inr (.inl reserved)))

/-! ## A host write of an illegal word (R187) -/

theorem step_write_ctrl {s : State} {v : Int} {rest : List Input} (hi : s.inputs = .write 0x0 v :: rest) :
    step s = writeCtrl v { s with inputs := rest } := by
  simp only [step, hi, takeInput]
  exact if_pos rfl

theorem writeCtrl_illegal {s : State} {v : Int} {e : DecodeReject} (idle : s.status.busy = false)
    (hd : decode (BitVec.ofInt 8 v) = .error e) : writeCtrl v s = .next (illegalCommand s) := by
  simp [writeCtrl, idle, hd]

/-- R187 with `BUSY` spelled out: it is 0 before and after. -/
theorem illegalCommand_of_idle {s : State} (idle : s.status.busy = false) :
    illegalCommand s = { s with status := { s.status with busy := false, done := true, err := 6 } } := by
  rw [← idle]
  rfl

/-- Settles O3: the decoder's tests in order, and the one step that takes an illegal write. -/
theorem illegalCommandSetsStatusOnly : Obligations.IllegalCommandSetsStatusOnly := by
  refine ⟨decode_isError_iff, fun s v rest e hi idle hd => ?_⟩
  have idle' : ({ s with inputs := rest } : State).status.busy = false := idle
  rw [step_write_ctrl hi, writeCtrl_illegal idle' hd, illegalCommand_of_idle idle']

end Sys2Proof.Machine
end

section
/-!
PROOFS. The three fields of an encoding (R80, R163): cutting an assembled sequence gives its parts back, a sequence of
`N` bits is assembled from its own fields, and the fields as slices of the integer and as sums over their bits (R81).
-/
namespace Sys2Proof.Machine

/-! ## Cutting and assembling -/

@[simp] theorem signOf_assemble (s : Bool) (x y : List Bool) : signOf (assemble s x y) = s := rfl

theorem exponentField_assemble {d : Descriptor} {x : List Bool} (s : Bool) (y : List Bool) (hx : x.length = d.e) :
    exponentField (assemble s x y) d = ofBits x := by
  simp [exponentField, assemble, ← hx]

theorem mantissaField_assemble {d : Descriptor} {x y : List Bool} (s : Bool) (hx : x.length = d.e)
    (hy : y.length = d.m) : mantissaField (assemble s x y) d = ofBits y := by
  simp [mantissaField, assemble, Nat.add_comm 1, ← hx, ← hy]

theorem decodeBits_assemble {d : Descriptor} {x y : List Bool} (s : Bool) (hx : x.length = d.e)
    (hy : y.length = d.m) : decodeBits (assemble s x y) d = decodeFields s (ofBits x) (ofBits y) d := by
  rw [decodeBits, signOf_assemble, exponentField_assemble s y hx, mantissaField_assemble s hx hy]

/-- R80: every sequence of `N` bits is a sign, an exponent field of `E` bits and a mantissa field of `M` bits. -/
theorem eq_assemble_of_length {B : List Bool} {d : Descriptor} (hB : B.length = d.n) :
    ∃ s x y, B = assemble s x y ∧ x.length = d.e ∧ y.length = d.m := by
  rw [Descriptor.n] at hB
  cases B with
  | nil => rw [List.length_nil] at hB; omega
  | cons s rest =>
    have hrest : rest.length = d.e + d.m := by rw [List.length_cons] at hB; omega
    exact ⟨s, rest.take d.e, rest.drop d.e, by simp [assemble], by simp [hrest], by simp [hrest]⟩

theorem ofBits_assemble (s : Bool) (x y : List Bool) :
    ofBits (assemble s x y) = (s.toNat * 2 ^ x.length + ofBits x) * 2 ^ y.length + ofBits y := by
  rw [assemble, ← List.cons_append, ofBits_append, ofBits_cons]

/-! ## The fields as slices of the integer -/

theorem mul_add_div_mod {k r : Nat} (q : Nat) (hr : r < k) : (q * k + r) / k = q ∧ (q * k + r) % k = r :=
  (Nat.div_mod_unique (by omega)).mpr ⟨by ring, hr⟩

/-- R81: cutting the integer of an assembled sequence below bit `M` and below bit `M + E`. -/
theorem ofBits_assemble_slices {d : Descriptor} {x y : List Bool} (s : Bool) (hx : x.length = d.e)
    (hy : y.length = d.m) :
    ofBits (assemble s x y) / 2 ^ d.m / 2 ^ d.e = s.toNat ∧ ofBits (assemble s x y) / 2 ^ d.m % 2 ^ d.e = ofBits x ∧
      ofBits (assemble s x y) % 2 ^ d.m = ofBits y := by
  obtain ⟨upper, lower⟩ := mul_add_div_mod (s.toNat * 2 ^ d.e + ofBits x) (hy ▸ ofBits_lt y)
  obtain ⟨sign, exponent⟩ := mul_add_div_mod s.toNat (hx ▸ ofBits_lt x)
  rw [ofBits_assemble, hx, hy]
  exact ⟨by rw [upper, sign], by rw [upper, exponent], lower⟩

/-- R81: bit `N - 1` of the integer is the sign. -/
theorem testBit_ofBits_assemble {d : Descriptor} {x y : List Bool} (s : Bool) (hx : x.length = d.e)
    (hy : y.length = d.m) : (ofBits (assemble s x y)).testBit (d.n - 1) = s := by
  obtain ⟨sign, -, -⟩ := ofBits_assemble_slices s hx hy
  have top : d.n - 1 = 0 + d.e + d.m := by rw [Descriptor.n]; omega
  rw [top, ← Nat.testBit_div_two_pow, ← Nat.testBit_div_two_pow, sign]
  cases s <;> rfl

/-! ## The fields as sums over their bits -/

theorem ofBits_eq_sum (bs : List Bool) :
    ofBits bs = ∑ i ∈ Finset.range bs.length, (bs.getD i false).toNat * 2 ^ (bs.length - 1 - i) := by
  induction bs with
  | nil => rfl
  | cons b bs ih =>
    have weight : ∀ i, bs.length + 1 - 1 - (i + 1) = bs.length - 1 - i := by omega
    simp only [List.length_cons, Finset.sum_range_succ', weight, List.getD_cons_succ, List.getD_cons_zero]
    rw [ofBits_cons, ih]
    exact Nat.add_comm _ _

/-- R81: the integer of a slice of a sequence, over the bits of the sequence. -/
theorem ofBits_slice_eq_sum {B : List Bool} {a k : Nat} (h : a + k ≤ B.length) :
    ofBits ((B.drop a).take k) = ∑ i ∈ Finset.range k, (B.getD (a + i) false).toNat * 2 ^ (k - 1 - i) := by
  have len : ((B.drop a).take k).length = k := by simp; omega
  rw [ofBits_eq_sum, len]
  refine Finset.sum_congr rfl fun i hi => ?_
  have hi : i < k := Finset.mem_range.mp hi
  simp [List.getD_eq_getElem?_getD, hi]

/-- Settles O26: the sequence is assembled from its parts, whose places in the integer are known. -/
theorem fieldsOfTheInteger : Obligations.FieldsOfTheInteger := by
  intro B d hB
  have exponentSum := ofBits_slice_eq_sum (B := B) (a := 1) (k := d.e) (by rw [hB, Descriptor.n]; omega)
  have mantissaSum := ofBits_slice_eq_sum (B := B) (a := 1 + d.e) (k := d.m) (by rw [hB, Descriptor.n])
  rw [Nat.add_comm 1 d.e] at mantissaSum
  obtain ⟨s, x, y, rfl, hx, hy⟩ := eq_assemble_of_length hB
  obtain ⟨-, exponent, mantissa⟩ := ofBits_assemble_slices s hx hy
  refine ⟨?sign, ?exponentSlice, ?mantissaSlice, exponentSum, ?mantissaSum⟩
  case sign => rw [signOf_assemble, testBit_ofBits_assemble s hx hy]
  case exponentSlice => rw [exponentField_assemble s y hx, exponent]
  case mantissaSlice => rw [mantissaField_assemble s hx hy, mantissa]
  case mantissaSum => rw [← mantissaSum, mantissaField, Nat.add_comm 1 d.e]

end Sys2Proof.Machine
end

section
/-!
PROOFS. The class of an encoding by its fields and the value of a finite one (R83, R164 to R169), and the canonical NaN
and `+Infinity` (R85, R86).
-/
namespace Sys2Proof.Machine

/-! ## The all-ones field has the most bits set (R10) -/

theorem bitLength_le_of_lt {f E : Nat} (hf : f < 2 ^ E) : bitLength f ≤ E := by
  by_contra! long
  have pos : f ≠ 0 := by rintro rfl; simp [bitLength] at long
  have top : 2 ^ E ≤ 2 ^ (bitLength f - 1) := Nat.pow_le_pow_right (by decide) (by omega)
  have low := two_pow_le_of_pos pos
  omega

/-- Leading zeros add no bit. -/
theorem count_bitsE_add {v n : Nat} (hv : v < 2 ^ n) (k : Nat) :
    (bitsE v (n + k)).count true = (bitsE v n).count true := by
  induction k with
  | zero => rfl
  | succ k ih =>
    have clear : v.testBit (n + k) = false :=
      Nat.testBit_lt_two_pow (hv.trans_le (Nat.pow_le_pow_right (by decide) (Nat.le_add_right n k)))
    rw [← Nat.add_assoc, bitsE, clear, List.count_cons_of_ne (by decide), ih]

/-- The bits set in a value are those of any field that holds it. -/
theorem popcount_eq_count_bitsE {f E : Nat} (hf : f < 2 ^ E) : popcount f = (bitsE f E).count true := by
  obtain ⟨k, rfl⟩ := Nat.exists_eq_add_of_le (bitLength_le_of_lt hf)
  exact (count_bitsE_add (lt_two_pow_bitLength f) k).symm

theorem bitsE_allOnes (E : Nat) : bitsE (allOnes E) E = copies true E := by
  simpa [ofBits_copies_true] using bitsE_ofBits (copies true E)

/-- R164, R10: a field of `E` bits has `E` bits set exactly when it is all ones. -/
theorem popcount_eq_iff {f E : Nat} (hf : f < 2 ^ E) : popcount f = E ↔ f = allOnes E := by
  rw [popcount_eq_count_bitsE hf]
  constructor
  · intro full
    have ones : bitsE f E = copies true E :=
      List.eq_replicate_iff.mpr ⟨bitsE_length f E, fun b hb =>
        (List.count_eq_length.mp (full.trans (bitsE_length f E).symm) b hb).symm⟩
    rw [← ofBits_copies_true, ← ones, ofBits_bitsE, Nat.mod_eq_of_lt hf]
  · rintro rfl
    simp [bitsE_allOnes, copies]

theorem allOnes_lt (E : Nat) : allOnes E < 2 ^ E := Nat.sub_lt (by positivity) Nat.one_pos

/-! ## The rows of R83 -/

/-- R164. -/
theorem decodeFields_allOnes (s : Bool) (mf : Nat) (d : Descriptor) :
    decodeFields s (allOnes d.e) mf d = if mf ≠ 0 then .nan else .infinity s :=
  if_pos ((popcount_eq_iff (allOnes_lt d.e)).mpr rfl)

/-- R165, R166. -/
theorem decodeFields_zero {d : Descriptor} (he : 1 ≤ d.e) (s : Bool) (mf : Nat) :
    decodeFields s 0 mf d = if mf = 0 then .zero s else normalise s mf (1 - d.m) 0 d.bias := by
  have few : popcount 0 ≠ d.e := (Nat.pos_iff_ne_zero.mp he).symm
  rw [decodeFields, if_neg few, if_pos rfl]

/-- R167. -/
theorem decodeFields_between {f : Nat} {d : Descriptor} (hf : 1 ≤ f) (hlt : f < allOnes d.e) (s : Bool) (mf : Nat) :
    decodeFields s f mf d = normalise s (mf + 2 ^ d.m) (-d.m) f d.bias := by
  have few : popcount f ≠ d.e := fun full =>
    hlt.ne ((popcount_eq_iff (hlt.trans (allOnes_lt d.e))).mp full)
  rw [decodeFields, if_neg few, if_neg (Nat.pos_iff_ne_zero.mp hf)]

/-- R168, R169: moving the trailing zeros of the significand into the exponent keeps the value. -/
theorem normalise_value {mant0 : Nat} (pos : 0 < mant0) (s : Bool) (base : Int) (f : Nat) (bias : Int) :
    ∃ e m, normalise s mant0 base f bias = .finite s e m ∧
      (m : ℚ) * 2 ^ e = (mant0 : ℚ) * 2 ^ (base + f - bias) := by
  have whole : mant0 / 2 ^ ctz mant0 * 2 ^ ctz mant0 = mant0 :=
    Nat.div_mul_cancel (Nat.dvd_of_mod_eq_zero (ctz_spec pos).1)
  have moved : base + ctz mant0 + f - bias = ctz mant0 + (base + f - bias) := by ring
  refine ⟨_, _, rfl, ?_⟩
  calc ((mant0 / 2 ^ ctz mant0 : Nat) : ℚ) * 2 ^ (base + ctz mant0 + f - bias)
    _ = ((mant0 / 2 ^ ctz mant0 * 2 ^ ctz mant0 : Nat) : ℚ) * 2 ^ (base + f - bias) := by
      rw [moved, zpow_add₀ two_ne_zero, zpow_natCast, Nat.cast_mul, Nat.cast_pow, Nat.cast_ofNat, mul_assoc]
    _ = (mant0 : ℚ) * 2 ^ (base + f - bias) := by rw [whole]

/-- Settles O28: each row is one branch of `decodeFields`, and normalising keeps the value of a finite number. -/
theorem decodedClassAndValue : Obligations.DecodedClassAndValue := by
  intro B d f mf _ hf hmf
  have decoded : decodeBits B d = decodeFields (signOf B) f mf d := by rw [hf, hmf, decodeBits]
  rw [decoded]
  refine ⟨?nan, ?infinity, ?zero, ?subnormal, ?normal, ?noExponent⟩
  case nan =>
    rintro rfl hne
    exact (decodeFields_allOnes _ mf d).trans (if_pos hne)
  case infinity =>
    rintro rfl rfl
    exact (decodeFields_allOnes _ 0 d).trans (if_neg (by simp))
  case zero =>
    rintro rfl he rfl
    rw [decodeFields_zero he, if_pos rfl]
  case subnormal =>
    rintro rfl he hne
    obtain ⟨e, m, number, value⟩ := normalise_value (Nat.pos_of_ne_zero hne) (signOf B) (1 - d.m) 0 d.bias
    refine ⟨e, m, by rw [decodeFields_zero he, if_neg hne, number], ?_⟩
    have exponent : 1 - (d.m : Int) + (0 : Nat) - d.bias = 1 - d.bias - d.m := by push_cast; ring
    rw [value, exponent]
  case normal =>
    intro hpos hlt
    obtain ⟨e, m, number, value⟩ :=
      normalise_value (Nat.add_pos_right mf (by positivity : 0 < 2 ^ d.m)) (signOf B) (-d.m) f d.bias
    refine ⟨e, m, by rw [decodeFields_between hpos hlt, number], ?_⟩
    have exponent : -(d.m : Int) + f - d.bias = f - d.bias - d.m := by ring
    have significand : ((mf + 2 ^ d.m : Nat) : ℚ) = 2 ^ d.m + mf := by push_cast; ring
    rw [value, exponent, significand]
  case noExponent =>
    intro he
    simp [hf, exponentField, he]

/-! ## The canonical NaN and `+Infinity` (R85, R86) -/

/-- R85: the mantissa field of the NaN is its top bit alone. -/
theorem ofBits_nanMantissa {M : Nat} (hM : 1 ≤ M) : ofBits (nanMantissa M) = 2 ^ (M - 1) := by
  obtain ⟨M, rfl⟩ := Nat.exists_eq_add_of_le' hM
  simp [nanMantissa, ofBits_cons]

theorem nanMantissa_eq {M : Nat} (hM : 1 ≤ M) : nanMantissa M = true :: List.replicate (M - 1) false := by
  obtain ⟨M, rfl⟩ := Nat.exists_eq_add_of_le' hM
  rfl

/-- R85: the integer of the canonical NaN. -/
theorem ofBits_canonicalNan {d : Descriptor} (hm : 1 ≤ d.m) :
    ofBits (assemble false (copies true d.e) (nanMantissa d.m)) = (2 ^ d.e - 1) * 2 ^ d.m + 2 ^ (d.m - 1) := by
  rw [ofBits_assemble, ofBits_copies_true, ofBits_nanMantissa hm, allOnes]
  simp

/-- R86: the integer of `+Infinity`. -/
theorem ofBits_infinity (d : Descriptor) :
    ofBits (assemble false (copies true d.e) (copies false d.m)) = (2 ^ d.e - 1) * 2 ^ d.m := by
  rw [ofBits_assemble, ofBits_copies_true, allOnes]
  simp

theorem decodeBits_canonicalNan {d : Descriptor} (hm : 1 ≤ d.m) :
    decodeBits (assemble false (copies true d.e) (nanMantissa d.m)) d = .nan := by
  rw [decodeBits_assemble false (copies_length true d.e) (nanMantissa_length d.m), ofBits_copies_true,
    decodeFields_allOnes, ofBits_nanMantissa hm, if_pos (by positivity)]

theorem decodeBits_infinity (s : Bool) (d : Descriptor) :
    decodeBits (assemble s (copies true d.e) (copies false d.m)) d = .infinity s := by
  rw [decodeBits_assemble s (copies_length true d.e) (copies_length false d.m), ofBits_copies_true,
    decodeFields_allOnes, ofBits_copies_false, if_neg (by decide)]

/-- Settles O18: with a mantissa field the NaN is its top bit, without one it is `+Infinity`. -/
theorem canonicalNan : Obligations.CanonicalNan := by
  intro d
  constructor
  · intro hm
    refine ⟨_, rfl, ?_, ofBits_canonicalNan hm, decodeBits_canonicalNan hm⟩
    simp [assemble, copies, nanMantissa_eq hm]
  · intro hm
    have noMantissa : nanMantissa d.m = copies false d.m := by rw [hm]; rfl
    refine ⟨_, rfl, ?_, ?_, ?_⟩
    · simp [assemble, copies, hm, nanMantissa]
    · rw [noMantissa]; rfl
    · rw [noMantissa, decodeBits_infinity]

/-- R86: the integer of the encoder's NaN, under any descriptor with a mantissa field. -/
theorem encodeBits_nan_integer {d : Descriptor} (hm : 1 ≤ d.m) :
    (encodeBits .nan d).map ofBits = some ((2 ^ d.e - 1) * 2 ^ d.m + 2 ^ (d.m - 1)) :=
  congrArg some (ofBits_canonicalNan hm)

theorem encodeBits_infinity_integer (d : Descriptor) :
    (encodeBits (.infinity false) d).map ofBits = some ((2 ^ d.e - 1) * 2 ^ d.m) :=
  congrArg some (ofBits_infinity d)

/-- Settles O19: the table's integers are the general ones of the NaN and of `+Infinity`, computed. -/
theorem standardDescriptors : Obligations.StandardDescriptors := by
  refine ⟨rfl, rfl, rfl, rfl, rfl, rfl, rfl, rfl, rfl, rfl, rfl, rfl, ?_, ?_, ?_, ?_, ?_, ?_, ?_, ?_⟩
  iterate 4 exact (encodeBits_nan_integer (by decide)).trans (by decide)
  iterate 4 exact (encodeBits_infinity_integer _).trans (by decide)

end Sys2Proof.Machine
end

section
/-!
PROOFS. The steps of the stream commands (R117, R118, R119) as whole states, and what a failed transaction leaves
(R112, R114). One equation per branch of the bit primitives (R110, R113), then one lemma per failing command.
-/
namespace Sys2Proof.Machine

/-! ## The branches of `readBit` (R110) and `writeBit` (R113) that ask nothing of the mask's form -/

/-- R110: with no bit left, a byte is asked for. -/
theorem readBit_request {cont : Bool → State → Out} {s : State} (hp : s.pend = .none) (hm : s.rmask = 0x00) :
    readBit cont s = .next { s with pend := .src } := by
  simp [readBit, hp, hm]

/-- R110: with a bit left, it is delivered and nothing is fetched. -/
theorem readBit_deliver {cont : Bool → State → Out} {s : State} (hp : s.pend = .none) (hm : s.rmask ≠ 0x00) :
    readBit cont s = cont (s.rcur &&& s.rmask != 0) { s with rmask := s.rmask >>> 1 } := by
  simp only [readBit, hp, if_neg hm, deliverBit]

/-- R113: the bit that completes a byte resets the writer and sends the byte. -/
theorem writeBit_send {b : Bool} {cont : State → Out} {s : State} (hp : s.pend = .none)
    (last : s.wmask >>> 1 = 0x00) :
    writeBit b cont s = .next { s with wacc := 0x00, wmask := 0x80, pend := .snk (accumulate b s) } := by
  simp only [writeBit, hp, if_pos last]

/-- R113: any other bit is stored and nothing is sent. -/
theorem writeBit_store {b : Bool} {cont : State → Out} {s : State} (hp : s.pend = .none)
    (more : s.wmask >>> 1 ≠ 0x00) :
    writeBit b cont s = cont { s with wacc := accumulate b s, wmask := s.wmask >>> 1 } := by
  simp only [writeBit, hp, if_neg more]

/-- R62, R113: the command goes on once the byte is taken. -/
theorem writeBit_taken {b : Bool} {cont : State → Out} {s : State} {out : Byte} {rest : List SnkAnswer}
    (hp : s.pend = .snk out) (hs : s.sink = .ok :: rest) :
    writeBit b cont s = cont (sinkAnswered out rest s) := by
  simp only [writeBit, hp, receiveSink, hs, sinkAnswered]

/-! ## A failed transaction, command by command (R112, R114) -/

theorem exec_rdb_sourceFailed {s : State} {rest : List SrcAnswer} (hb : s.status.busy = true)
    (phase : s.phase = .rdb) (hp : s.pend = .src) (hs : s.source = .fail :: rest) :
    exec .rdb s = .next (sourceFailed rest s) := by
  rw [exec_rdb_of_not_refused hb phase (by simp [hp]), readBit_failed hp hs]

theorem exec_dec_sourceFailed {s : State} {rest : List SrcAnswer} (hb : s.status.busy = true)
    (phase : s.phase = .dec) (opened : s.opened = true) (hp : s.pend = .src) (hs : s.source = .fail :: rest) :
    exec .dec s = .next (sourceFailed rest s) := by
  rw [exec, execDec_running hb phase, if_pos opened, decRead, readBit_failed hp hs]

theorem exec_wrb_sinkFailed {s : State} {b : Byte} {rest : List SnkAnswer} (w : Bool) (hb : s.status.busy = true)
    (phase : s.phase = .wrb) (hp : s.pend = .snk b) (hs : s.sink = .fail :: rest) :
    exec (.wrb w) s = .next (sinkFailed rest s) := by
  rw [exec_wrb_of_not_refused w hb phase (by simp [hp]), writeBit_failed hp hs]

theorem exec_enc_sinkFailed {s : State} {b : Byte} {rest : List SnkAnswer} (hb : s.status.busy = true)
    (phase : s.phase = .enc) (opened : s.opened = true) (hp : s.pend = .snk b) (hs : s.sink = .fail :: rest) :
    exec .enc s = .next (sinkFailed rest s) := by
  rw [exec, execEnc_running hb phase, if_pos opened, encWrite, writeBit_failed hp hs]

/-! ## The obligations -/

/-- Settles O8: while idle, the step of `SINIT` is its acceptance, both initialisations and its completion. -/
theorem sinitReinitialisesBothAdapters : Obligations.SinitReinitialisesBothAdapters :=
  ⟨rfl, fun _ idle => exec_of_not_busy idle .sinit⟩

/-- Settles O9: a set flag refuses the command; otherwise it takes one branch of `readBit`. -/
theorem rdbReadsOneBit : Obligations.RdbReadsOneBit := by
  refine ⟨rfl, fun s hb phase => ⟨?refused, ?inHand, ?request, ?answered, ?failed⟩⟩
  case refused => exact exec_rdb_of_rfail hb phase
  case inHand =>
    intro hp hf hm
    rw [exec_rdb_of_not_refused hb phase (by simp [hf]), readBit_deliver hp hm]
    rfl
  case request =>
    intro hp hf hm
    rw [exec_rdb_of_not_refused hb phase (by simp [hf]), readBit_request hp hm]
  case answered =>
    intro b rest hp hs
    rw [exec_rdb_of_not_refused hb phase (by simp [hp]), readBit_answered hp hs]
    rfl
  case failed => exact fun rest hp hs => exec_rdb_sourceFailed hb phase hp hs

/-- Settles O10: a set flag refuses the command; otherwise it takes one branch of `writeBit`. -/
theorem wrbWritesOneBit : Obligations.WrbWritesOneBit := by
  refine ⟨rfl, rfl, fun w s hb phase => ⟨?refused, ?store, ?send, ?taken, ?failed⟩⟩
  case refused => exact exec_wrb_of_wfail w hb phase
  case store =>
    intro hp hf more
    rw [exec_wrb_of_not_refused w hb phase (by simp [hf]), writeBit_store hp more]
    rfl
  case send =>
    intro hp hf last
    rw [exec_wrb_of_not_refused w hb phase (by simp [hf]), writeBit_send hp last]
    rfl
  case taken =>
    intro b rest hp hs
    rw [exec_wrb_of_not_refused w hb phase (by simp [hp]), writeBit_taken hp hs]
    rfl
  case failed => exact fun b rest hp hs => exec_wrb_sinkFailed w hb phase hp hs

/-- Settles O12: both reading commands end in `sourceFailed`; the invariant keeps `RMASK` at 0 under a request. -/
theorem failedFetchLeavesTheReader : Obligations.FailedFetchLeavesTheReader := by
  refine fun s rest hb hp hs => ⟨?rdb, ?dec, ?reader⟩
  case rdb => exact fun phase => exec_rdb_sourceFailed hb phase hp hs
  case dec => exact fun phase opened => exec_dec_sourceFailed hb phase opened hp hs
  case reader =>
    intro inv
    obtain ⟨_, noBitLeft⟩ := inv.control.pend_src hp
    exact noBitLeft

/-- Settles O13: both writing commands end in `sinkFailed`; the invariant keeps the writer reset under a request. -/
theorem refusedSendLosesTheByte : Obligations.RefusedSendLosesTheByte := by
  refine fun s w b rest hb hp hs => ⟨?wrb, ?enc, ?writer⟩
  case wrb => exact fun phase => exec_wrb_sinkFailed w hb phase hp hs
  case enc => exact fun phase opened => exec_enc_sinkFailed hb phase opened hp hs
  case writer =>
    intro inv
    obtain ⟨_, writerReset⟩ := inv.control.pend_snk b hp
    exact writerReset

end Sys2Proof.Machine
end

section
/-!
PROOFS. The encoder case by case (R134 to R141): the encodings of zeros, infinities and NaN, one lemma per range of the
biased exponent for a finite number, and the single bits of what they emit.
-/
namespace Sys2Proof.Machine

/-! ## Zeros, infinities and NaN -/

/-- Settles O15: each class is one branch of `encodeBits`; only the mantissa field of NaN depends on `M`. -/
theorem zeroInfinityNanEncodings : Obligations.ZeroInfinityNanEncodings := by
  refine fun d s => ⟨rfl, rfl, ?withMantissa, ?noMantissa⟩
  case withMantissa =>
    intro hM
    simp [encodeBits, assemble, copies, nanMantissa_eq hM]
  case noMantissa =>
    intro hM
    simp [encodeBits, assemble, copies, hM, nanMantissa]

/-! ## The four ranges of the biased exponent -/

theorem significandLength_eq_log2 {m : Nat} (hm : 1 ≤ m) : significandLength m = m.log2 := by
  simp [significandLength, bitLength, Nat.one_le_iff_ne_zero.mp hm]

theorem allOnes_cast (E : Nat) : (allOnes E : Int) = 2 ^ E - 1 := by
  simp [allOnes]

/-- R138. -/
theorem encodeBits_underflow {e : Int} {m : Nat} {d : Descriptor} (hM : d.m + biasedExponent e m d ≤ 0) (s : Bool) :
    encodeBits (.finite s e m) d = some (assemble s (copies false d.e) (copies false d.m)) := by
  have below : biasedExponent e m d ≤ 0 := by omega
  rw [encodeBits, encodeFinite, if_pos below, if_pos hM]

/-- R139. -/
theorem encodeBits_subnormal {e : Int} {m : Nat} {d : Descriptor} (hf : biasedExponent e m d ≤ 0)
    (hM : 1 ≤ d.m + biasedExponent e m d) (s : Bool) :
    encodeBits (.finite s e m) d =
      some (assemble s (bitsE 0 d.e) (mantissaBits m (significandLength m - biasedExponent e m d) d.m)) := by
  rw [encodeBits, encodeFinite, if_pos hf, if_neg (by omega)]

/-- R140, below the all-ones exponent. -/
theorem encodeBits_normal {e : Int} {m : Nat} {d : Descriptor} (hf : 1 ≤ biasedExponent e m d)
    (hlt : biasedExponent e m d < allOnes d.e) (s : Bool) :
    encodeBits (.finite s e m) d =
      some (assemble s (bitsE (biasedExponent e m d).toNat d.e) (mantissaBits m (significandLength m - 1) d.m)) := by
  rw [encodeBits, encodeFinite, if_neg (by omega), if_neg (by omega)]

/-- R140, the overflow. -/
theorem encodeBits_overflow {e : Int} {m : Nat} {d : Descriptor} (hf : 1 ≤ biasedExponent e m d)
    (hle : allOnes d.e ≤ biasedExponent e m d) (s : Bool) : encodeBits (.finite s e m) d = none := by
  rw [encodeBits, encodeFinite, if_neg (by omega), if_pos hle]

/-! ## The bits of an encoding -/

theorem assemble_exponent_get {x : List Bool} {i : Nat} (hi : i < x.length) (s : Bool) (y : List Bool) :
    (assemble s x y)[1 + i]? = x[i]? := by
  rw [assemble, Nat.add_comm, List.getElem?_cons_succ, List.getElem?_append_left hi]

theorem assemble_mantissa_get (s : Bool) (x y : List Bool) (j : Nat) :
    (assemble s x y)[1 + x.length + j]? = y[j]? := by
  rw [assemble, Nat.add_assoc, Nat.add_comm, List.getElem?_cons_succ, List.getElem?_append_right (by omega),
    Nat.add_sub_cancel_left]

/-- R141: the length, the sign, the exponent bits and the mantissa bits of what the encoder assembles. -/
theorem assemble_encoded_bits {B : List Bool} {s : Bool} {v m : Nat} {start : Int} {d : Descriptor}
    (hB : B = assemble s (bitsE v d.e) (mantissaBits m start d.m)) :
    B.length = 1 + d.e + d.m ∧ B[0]? = some s ∧ (∀ i < d.e, B[1 + i]? = some (v.testBit (d.e - 1 - i))) ∧
      (∀ j < d.m, B[1 + d.e + j]? = some (testBitAt m (start - j))) := by
  subst hB
  refine ⟨by simp, rfl, fun i hi => ?exponent, fun j hj => ?mantissa⟩
  case exponent => rw [assemble_exponent_get (by simpa using hi), bitsE_get v hi]
  case mantissa =>
    have get := assemble_mantissa_get s (bitsE v d.e) (mantissaBits m start d.m) j
    rw [bitsE_length] at get
    rw [get, mantissaBits_get m start hj]

/-- Settles O16: one lemma per range of `f`; the bits are those of the exponent and mantissa fields assembled. -/
theorem finiteEncodingBitByBit : Obligations.FiniteEncodingBitByBit := by
  intro s e m d L f hm hL hf
  have length : significandLength m = L := (significandLength_eq_log2 hm).trans hL.symm
  have biased : biasedExponent e m d = f := by rw [biasedExponent, length, hf]
  have ones := allOnes_cast d.e
  refine ⟨?underflow, ?subnormal, ?normal, ?overflow⟩
  case underflow =>
    intro _ hM
    exact encodeBits_underflow (biased.symm ▸ hM) s
  case subnormal =>
    intro hle hM
    have encoded := encodeBits_subnormal (biased.symm ▸ hle) (biased.symm ▸ hM) s
    rw [length, biased] at encoded
    refine ⟨_, encoded, ?_⟩
    obtain ⟨total, sign, exponent, mantissa⟩ := assemble_encoded_bits rfl
    exact ⟨total, sign, fun i hi => by rw [exponent i hi, Nat.zero_testBit], mantissa⟩
  case normal =>
    intro hpos hlt
    have encoded := encodeBits_normal (e := e) (m := m) (d := d) (by omega) (by omega) s
    rw [length, biased] at encoded
    exact ⟨_, encoded, assemble_encoded_bits rfl⟩
  case overflow =>
    intro hpos hle
    exact encodeBits_overflow (by omega) (by omega) s

end Sys2Proof.Machine
end

section
/-!
PROOFS. The facts behind truncation (R141, R142): copied mantissa bits are those of a scaled and floored significand, and
every finite encoding is a whole number of steps of the grid that its exponent field fixes.
-/
namespace Sys2Proof.Machine

/-! ## Copied bits are a floor -/

/-- Scaling by a power of two shifts the bits of the whole part. -/
theorem testBit_floor_mul_zpow (m i : Nat) (c : Int) : ⌊(m : ℚ) * 2 ^ c⌋₊.testBit i = testBitAt m (i - c) := by
  obtain ⟨k, rfl | rfl⟩ := c.eq_nat_or_neg
  · have whole : (m : ℚ) * 2 ^ (k : Int) = ((m * 2 ^ k : Nat) : ℚ) := by push_cast; rfl
    rw [whole, Nat.floor_natCast, Nat.testBit_mul_two_pow]
    by_cases hk : k ≤ i
    · rw [← Nat.cast_sub hk, testBitAt_ofNat]; simp [hk]
    · rw [testBitAt_neg (by omega)]; simp [hk]
  · have quotient : (m : ℚ) * 2 ^ (-(k : Int)) = (m : ℚ) / ((2 ^ k : Nat) : ℚ) := by
      rw [zpow_neg, zpow_natCast, div_eq_mul_inv, Nat.cast_pow, Nat.cast_ofNat]
    have index : (i : Int) - -(k : Int) = ((i + k : Nat) : Int) := by push_cast; ring
    rw [quotient, Nat.floor_div_eq_div, Nat.testBit_div_two_pow, index, testBitAt_ofNat]

/-- R141: the mantissa bits from index `start` down are the low bits of `m` scaled and truncated. -/
theorem mantissaBits_eq_bitsE_floor (m : Nat) (start : Int) (n : Nat) :
    mantissaBits m start n = bitsE ⌊(m : ℚ) * 2 ^ ((n : Int) - 1 - start)⌋₊ n := by
  induction n generalizing start with
  | zero => rfl
  | succ n ih =>
    have shift : ((n + 1 : Nat) : Int) - 1 - start = n - 1 - (start - 1) := by push_cast; ring
    have index : (n : Int) - (n - 1 - (start - 1)) = start := by ring
    rw [mantissaBits, ih, bitsE, shift, testBit_floor_mul_zpow, index]

/-! ## The grid of a biased exponent (R166, R167) -/

/-- The distance between neighbouring magnitudes whose biased exponent is `g`; `g = 1` for the subnormal ones. -/
def gridStep (d : Descriptor) (g : Int) : ℚ := 2 ^ (g - d.bias - d.m)

/-- The integer significand of a finite encoding, its hidden bit included. -/
def fieldSignificand (f mf : Nat) (d : Descriptor) : Nat := if f = 0 then mf else mf + 2 ^ d.m

theorem gridStep_pos (d : Descriptor) (g : Int) : 0 < gridStep d g := by rw [gridStep]; positivity

theorem gridStep_add (d : Descriptor) (g : Int) (k : Nat) : gridStep d (g + k) = (2 ^ k : Nat) * gridStep d g := by
  have exponent : g + k - d.bias - d.m = k + (g - d.bias - d.m) := by ring
  rw [gridStep, exponent, zpow_add₀ two_ne_zero, zpow_natCast, Nat.cast_pow, Nat.cast_ofNat, gridStep]

/-- R142: the magnitude of every finite encoding or zero is its significand in steps of its exponent's grid. -/
theorem magnitude_decodeBits {B : List Bool} {d : Descriptor} (hB : B.length = d.n) (he : 1 ≤ d.e)
    (hlt : exponentField B d < allOnes d.e) :
    magnitude (decodeBits B d) = some ((fieldSignificand (exponentField B d) (mantissaField B d) d : ℚ) *
      gridStep d (max (exponentField B d) 1)) := by
  obtain ⟨-, -, zero, subnormal, normal, -⟩ := decodedClassAndValue B d _ _ hB rfl rfl
  by_cases hf : exponentField B d = 0
  · by_cases hmf : mantissaField B d = 0
    · rw [zero hf he hmf]
      simp [magnitude, fieldSignificand, hf, hmf]
    · obtain ⟨e, m, number, value⟩ := subnormal hf he hmf
      rw [number, magnitude, value]
      simp [fieldSignificand, gridStep, hf]
  · have hpos : 1 ≤ exponentField B d := Nat.pos_of_ne_zero hf
    obtain ⟨e, m, number, value⟩ := normal hpos hlt
    have grid : max (exponentField B d : Int) 1 = exponentField B d := by omega
    rw [number, magnitude, value, grid, fieldSignificand, if_neg hf, gridStep]
    push_cast
    rw [add_comm]

theorem mantissaField_lt (B : List Bool) (d : Descriptor) : mantissaField B d < 2 ^ d.m :=
  (ofBits_lt _).trans_le (Nat.pow_le_pow_right (by decide) (by simp))

theorem exponentField_lt (B : List Bool) (d : Descriptor) : exponentField B d < 2 ^ d.e :=
  (ofBits_lt _).trans_le (Nat.pow_le_pow_right (by decide) (by simp))

/-- R164: only encodings below the all-ones exponent have a magnitude. -/
theorem exponentField_lt_of_magnitude {B : List Bool} {d : Descriptor} {q : ℚ} (hB : B.length = d.n)
    (h : magnitude (decodeBits B d) = some q) : exponentField B d < allOnes d.e := by
  obtain ⟨nan, infinity, -⟩ := decodedClassAndValue B d _ _ hB rfl rfl
  have fits := exponentField_lt B d
  by_contra! top
  have ones : exponentField B d = 2 ^ d.e - 1 := by rw [allOnes] at top; omega
  by_cases hmf : mantissaField B d = 0
  · rw [infinity ones hmf] at h; cases h
  · rw [nan ones hmf] at h; cases h

/-! ## Significands -/

theorem fieldSignificand_lt {mf : Nat} {d : Descriptor} (hmf : mf < 2 ^ d.m) (f : Nat) :
    fieldSignificand f mf d < 2 ^ (d.m + 1) := by
  rw [fieldSignificand, pow_succ]
  split <;> omega

theorem fieldSignificand_eq_zero_iff {f mf : Nat} {d : Descriptor} :
    fieldSignificand f mf d = 0 ↔ f = 0 ∧ mf = 0 := by
  have hidden : 0 < 2 ^ d.m := by positivity
  rw [fieldSignificand]
  split <;> omega

theorem fieldSignificand_inj {f mf mf' : Nat} {d : Descriptor} (h : fieldSignificand f mf d = fieldSignificand f mf' d) :
    mf = mf' := by
  rw [fieldSignificand, fieldSignificand] at h
  split at h <;> omega

end Sys2Proof.Machine
end

section
/-!
PROOFS. Truncation toward zero (R142): the encoded magnitude is the operand rounded down to the grid of its exponent, no
other encoding lies between the two, and the operands of the top range encode as the largest finite encoding.
-/
namespace Sys2Proof.Machine

/-! ## Where the operand stands on the grid (R137) -/

/-- R137: the operand lies between the powers of two of its biased exponent and of the next. -/
theorem operand_bounds {m : Nat} (hm : 1 ≤ m) (e : Int) (d : Descriptor) :
    gridStep d (biasedExponent e m d + d.m) ≤ (m : ℚ) * 2 ^ e ∧
      (m : ℚ) * 2 ^ e < gridStep d (biasedExponent e m d + d.m + 1) := by
  have nonzero : m ≠ 0 := Nat.one_le_iff_ne_zero.mp hm
  have low : gridStep d (biasedExponent e m d + d.m) = (2 ^ m.log2 : Nat) * 2 ^ e := by
    have exponent : biasedExponent e m d + d.m - d.bias - d.m = m.log2 + e := by
      rw [biasedExponent, significandLength_eq_log2 hm]; ring
    rw [gridStep, exponent, zpow_add₀ two_ne_zero, zpow_natCast, Nat.cast_pow, Nat.cast_ofNat]
  have high : gridStep d (biasedExponent e m d + d.m + 1) = (2 ^ (m.log2 + 1) : Nat) * 2 ^ e := by
    have next := gridStep_add d (biasedExponent e m d + d.m) 1
    rw [Nat.cast_one] at next
    rw [next, low, pow_succ]
    push_cast
    ring
  have scale : (0 : ℚ) < 2 ^ e := by positivity
  rw [low, high]
  exact ⟨mul_le_mul_of_nonneg_right (Nat.cast_le.mpr (Nat.log2_self_le nonzero)) scale.le,
    mul_lt_mul_of_pos_right (Nat.cast_lt.mpr Nat.lt_log2_self) scale⟩

theorem gridStep_lt_iff (d : Descriptor) {g g' : Int} : gridStep d g < gridStep d g' ↔ g < g' := by
  rw [gridStep, gridStep, zpow_lt_zpow_iff_right₀ one_lt_two]
  omega

theorem gridStep_le (d : Descriptor) {g g' : Int} (h : g ≤ g') : gridStep d g ≤ gridStep d g' :=
  zpow_le_zpow_right₀ one_le_two (by omega)

theorem operand_lt_gridStep_iff {m : Nat} (hm : 1 ≤ m) {e : Int} {d : Descriptor} {g : Int} :
    (m : ℚ) * 2 ^ e < gridStep d g ↔ biasedExponent e m d + d.m < g := by
  obtain ⟨low, high⟩ := operand_bounds hm e d
  exact ⟨fun h => (gridStep_lt_iff d).mp (low.trans_lt h), fun h => high.trans_le (gridStep_le d h)⟩

/-- The operand truncated to whole steps of the grid of `g`: what its significand is under that exponent. -/
def truncated (e : Int) (m : Nat) (d : Descriptor) (g : Int) : Nat := ⌊(m : ℚ) * 2 ^ e / gridStep d g⌋₊

/-- A number of steps fits under the operand exactly when it fits under the truncated one. -/
theorem le_truncated_iff {e : Int} {m : Nat} {d : Descriptor} {g : Int} {k : Nat} :
    k ≤ truncated e m d g ↔ (k : ℚ) * gridStep d g ≤ (m : ℚ) * 2 ^ e := by
  have step := gridStep_pos d g
  rw [truncated, Nat.le_floor_iff (by positivity), le_div_iff₀ step]

theorem truncated_lt_two_pow_iff {m : Nat} (hm : 1 ≤ m) {e : Int} {d : Descriptor} {g : Int} {k : Nat} :
    truncated e m d g < 2 ^ k ↔ biasedExponent e m d + d.m < g + k := by
  rw [← not_le, le_truncated_iff, ← gridStep_add, not_le, operand_lt_gridStep_iff hm]

theorem truncated_eq_zero_iff {m : Nat} (hm : 1 ≤ m) {e : Int} {d : Descriptor} {g : Int} :
    truncated e m d g = 0 ↔ biasedExponent e m d + d.m < g := by
  have underOne := truncated_lt_two_pow_iff hm (e := e) (d := d) (g := g) (k := 0)
  rwa [pow_zero, Nat.lt_one_iff, Nat.cast_zero, add_zero] at underOne

/-- R139 to R141: the bits from `start` down are those of the truncated operand, when `start` fits the grid. -/
theorem mantissaBits_eq_bitsE_truncated {e : Int} {m : Nat} {d : Descriptor} {start g : Int}
    (h : start + e + d.bias + 1 = g) : mantissaBits m start d.m = bitsE (truncated e m d g) d.m := by
  have shift : e - (g - d.bias - d.m) = d.m - 1 - start := by omega
  rw [mantissaBits_eq_bitsE_floor, truncated, gridStep, mul_div_assoc, ← zpow_sub₀ two_ne_zero, shift]

/-! ## What the encoder emits, as fields -/

theorem encodeBits_subnormal_fields {s : Bool} {e : Int} {m : Nat} {d : Descriptor} {B : List Bool} (hm : 1 ≤ m)
    (hf : biasedExponent e m d ≤ 0) (h : encodeBits (.finite s e m) d = some B) :
    signOf B = s ∧ exponentField B d = 0 ∧ mantissaField B d = truncated e m d 1 := by
  by_cases hM : d.m + biasedExponent e m d ≤ 0
  · have noStep : truncated e m d 1 < 2 ^ 0 := (truncated_lt_two_pow_iff hm).mpr (by omega)
    rw [encodeBits_underflow hM, Option.some.injEq] at h
    subst h
    rw [signOf_assemble, exponentField_assemble _ _ (copies_length _ _),
      mantissaField_assemble _ (copies_length _ _) (copies_length _ _), ofBits_copies_false, ofBits_copies_false]
    exact ⟨rfl, rfl, by omega⟩
  · have small : truncated e m d 1 < 2 ^ d.m := (truncated_lt_two_pow_iff hm).mpr (by omega)
    have start : significandLength m - biasedExponent e m d + e + d.bias + 1 = 1 := by rw [biasedExponent]; ring
    rw [encodeBits_subnormal hf (by omega), mantissaBits_eq_bitsE_truncated start, Option.some.injEq] at h
    subst h
    rw [signOf_assemble, exponentField_assemble _ _ (bitsE_length _ _),
      mantissaField_assemble _ (bitsE_length _ _) (bitsE_length _ _), ofBits_bitsE, ofBits_bitsE, Nat.zero_mod,
      Nat.mod_eq_of_lt small]
    exact ⟨rfl, rfl, rfl⟩

theorem encodeBits_normal_fields {s : Bool} {e : Int} {m : Nat} {d : Descriptor} {B : List Bool} (hm : 1 ≤ m)
    (hf : 1 ≤ biasedExponent e m d) (h : encodeBits (.finite s e m) d = some B) :
    signOf B = s ∧ exponentField B d = biasedExponent e m d ∧ exponentField B d < allOnes d.e ∧
      mantissaField B d + 2 ^ d.m = truncated e m d (biasedExponent e m d) := by
  have hlt : biasedExponent e m d < allOnes d.e := by
    by_contra! top
    rw [encodeBits_overflow hf top] at h
    cases h
  have fits : (biasedExponent e m d).toNat < 2 ^ d.e := by
    have ones := allOnes_lt d.e
    omega
  have large : ¬ truncated e m d (biasedExponent e m d) < 2 ^ d.m := fun small => by
    have := (truncated_lt_two_pow_iff hm).mp small
    omega
  have small : truncated e m d (biasedExponent e m d) < 2 ^ (d.m + 1) :=
    (truncated_lt_two_pow_iff hm).mpr (by push_cast; omega)
  have start : significandLength m - 1 + e + d.bias + 1 = biasedExponent e m d := by rw [biasedExponent]; ring
  rw [encodeBits_normal hf hlt, mantissaBits_eq_bitsE_truncated start, Option.some.injEq] at h
  subst h
  rw [signOf_assemble, exponentField_assemble _ _ (bitsE_length _ _),
    mantissaField_assemble _ (bitsE_length _ _) (bitsE_length _ _), ofBits_bitsE, ofBits_bitsE,
    Nat.mod_eq_of_lt fits]
  refine ⟨rfl, by omega, by omega, ?_⟩
  rw [Nat.mod_eq_sub_mod (by omega), Nat.mod_eq_of_lt (by rw [pow_succ] at small; omega)]
  omega

/-- R138 to R142: the fields of an encoding, in every range of the biased exponent. -/
theorem encodeBits_fields {s : Bool} {e : Int} {m : Nat} {d : Descriptor} {B : List Bool} (he : 1 ≤ d.e) (hm : 1 ≤ m)
    (h : encodeBits (.finite s e m) d = some B) :
    signOf B = s ∧ (exponentField B d : Int) = max (biasedExponent e m d) 0 ∧ exponentField B d < allOnes d.e ∧
      fieldSignificand (exponentField B d) (mantissaField B d) d = truncated e m d (max (biasedExponent e m d) 1) := by
  by_cases hf : biasedExponent e m d ≤ 0
  · have room : 2 ^ 1 ≤ 2 ^ d.e := Nat.pow_le_pow_right (by decide) he
    obtain ⟨sign, exponent, mantissa⟩ := encodeBits_subnormal_fields hm hf h
    have grid : max (biasedExponent e m d) 1 = 1 := by omega
    rw [exponent, fieldSignificand, if_pos rfl, grid, mantissa, allOnes]
    exact ⟨sign, by omega, by omega, rfl⟩
  · obtain ⟨sign, exponent, below, mantissa⟩ := encodeBits_normal_fields hm (by omega) h
    have grid : max (biasedExponent e m d) 1 = biasedExponent e m d := by omega
    rw [fieldSignificand, if_neg (by omega), grid, mantissa]
    exact ⟨sign, by omega, below, rfl⟩

/-- R142: the magnitude of an encoding is the operand truncated to the grid of its exponent. -/
theorem magnitude_encodeBits {s : Bool} {e : Int} {m : Nat} {d : Descriptor} {B : List Bool} (he : 1 ≤ d.e)
    (hm : 1 ≤ m) (h : encodeBits (.finite s e m) d = some B) :
    magnitude (decodeBits B d) = some ((truncated e m d (max (biasedExponent e m d) 1) : ℚ) *
      gridStep d (max (biasedExponent e m d) 1)) := by
  obtain ⟨-, exponent, below, significand⟩ := encodeBits_fields he hm h
  have grid : max (exponentField B d : Int) 1 = max (biasedExponent e m d) 1 := by omega
  rw [magnitude_decodeBits (encodeBits_length h) he below, significand, grid]

/-! ## Nothing representable lies between the truncated operand and the operand -/

/-- A significand of `M + 1` bits on a coarser grid is a whole number of the finer grid's steps; on a finer grid it is
below the truncated operand's top bit. -/
theorem representable_le_truncated {m : Nat} (hm : 1 ≤ m) {e : Int} {d : Descriptor} {k : Nat} {g : Int}
    (hk : k < 2 ^ (d.m + 1)) (hg : 1 ≤ g) (hle : (k : ℚ) * gridStep d g ≤ (m : ℚ) * 2 ^ e) :
    (k : ℚ) * gridStep d g ≤ (truncated e m d (max (biasedExponent e m d) 1) : ℚ) *
      gridStep d (max (biasedExponent e m d) 1) := by
  set top := max (biasedExponent e m d) 1 with htop
  rcases le_or_gt top g with coarser | finer
  · obtain ⟨j, rfl⟩ := Int.le.dest coarser
    have whole : (k : ℚ) * gridStep d (top + j) = (k * 2 ^ j : Nat) * gridStep d top := by
      rw [gridStep_add, Nat.cast_mul, mul_assoc]
    rw [whole] at hle ⊢
    exact mul_le_mul_of_nonneg_right (Nat.cast_le.mpr (le_truncated_iff.mpr hle)) (gridStep_pos d top).le
  · have leading : 2 ^ d.m ≤ truncated e m d top := by
      rw [← not_lt, truncated_lt_two_pow_iff hm]
      omega
    calc (k : ℚ) * gridStep d g
      _ ≤ (2 ^ (d.m + 1) : Nat) * gridStep d g :=
        mul_le_mul_of_nonneg_right (Nat.cast_le.mpr hk.le) (gridStep_pos d g).le
      _ = gridStep d (g + (d.m + 1 : Nat)) := (gridStep_add d g _).symm
      _ ≤ gridStep d (top + d.m) := gridStep_le d (by push_cast; omega)
      _ = (2 ^ d.m : Nat) * gridStep d top := gridStep_add d top _
      _ ≤ _ := mul_le_mul_of_nonneg_right (Nat.cast_le.mpr leading) (gridStep_pos d top).le

/-! ## The largest finite encoding -/

theorem eq_of_fields_eq {B B' : List Bool} {d : Descriptor} (hB : B.length = d.n) (hB' : B'.length = d.n)
    (sign : signOf B = signOf B') (exponent : exponentField B d = exponentField B' d)
    (mantissa : mantissaField B d = mantissaField B' d) : B = B' := by
  obtain ⟨s, x, y, rfl, hx, hy⟩ := eq_assemble_of_length hB
  obtain ⟨s', x', y', rfl, hx', hy'⟩ := eq_assemble_of_length hB'
  rw [exponentField_assemble _ _ hx, exponentField_assemble _ _ hx'] at exponent
  rw [mantissaField_assemble _ hx hy, mantissaField_assemble _ hx' hy'] at mantissa
  rw [signOf_assemble, signOf_assemble] at sign
  rw [sign, ← bitsE_ofBits x, ← bitsE_ofBits y, exponent, mantissa, hx, hy, ← hx', ← hy', bitsE_ofBits, bitsE_ofBits]

/-- One step above the largest significand is a power of two, in either range of the exponent. -/
theorem fieldSignificand_largest (f : Nat) (d : Descriptor) :
    ∃ k : Nat, fieldSignificand f (allOnes d.m) d + 1 = 2 ^ k ∧ max (f : Int) 1 + k = f + d.m + 1 := by
  have pos : 0 < 2 ^ d.m := by positivity
  by_cases hf : f = 0
  · refine ⟨d.m, ?_, by omega⟩
    rw [fieldSignificand, if_pos hf, allOnes]
    omega
  · refine ⟨d.m + 1, ?_, by omega⟩
    rw [fieldSignificand, if_neg hf, allOnes, pow_succ]
    omega

/-- The encoding with the largest finite magnitude (R142): the highest exponent below all-ones, every mantissa bit set. -/
def largestFinite (d : Descriptor) (s : Bool) : List Bool := assemble s (bitsE (2 ^ d.e - 2) d.e) (copies true d.m)

@[simp] theorem largestFinite_length (d : Descriptor) (s : Bool) : (largestFinite d s).length = d.n := by
  simp [largestFinite, Descriptor.n]

theorem largestFinite_fields (d : Descriptor) (s : Bool) :
    signOf (largestFinite d s) = s ∧ exponentField (largestFinite d s) d = 2 ^ d.e - 2 ∧
      mantissaField (largestFinite d s) d = allOnes d.m := by
  have fits : 2 ^ d.e - 2 < 2 ^ d.e := Nat.sub_lt (by positivity) two_pos
  refine ⟨rfl, ?exponent, ?mantissa⟩
  case exponent => rw [largestFinite, exponentField_assemble _ _ (bitsE_length _ _), ofBits_bitsE, Nat.mod_eq_of_lt fits]
  case mantissa =>
    rw [largestFinite, mantissaField_assemble _ (bitsE_length _ _) (copies_length _ _), ofBits_copies_true]

/-- R140: only the all-ones range has no encoding. -/
theorem exists_encoding {e : Int} {m : Nat} {d : Descriptor} (hlt : biasedExponent e m d < allOnes d.e) (s : Bool) :
    ∃ B, encodeBits (.finite s e m) d = some B := by
  by_cases hM : d.m + biasedExponent e m d ≤ 0
  · exact ⟨_, encodeBits_underflow hM s⟩
  · by_cases hf : biasedExponent e m d ≤ 0
    · exact ⟨_, encodeBits_subnormal hf (by omega) s⟩
    · exact ⟨_, encodeBits_normal (by omega) hlt s⟩

/-- With two bits or more after the sign, the largest finite encoding is not a zero. -/
theorem one_le_top_add {E M : Nat} (he : 1 ≤ E) (h : 2 ≤ E + M) : 1 ≤ 2 ^ E - 2 + M := by
  rcases he.eq_or_lt with rfl | two
  · omega
  · have room : 2 ^ 2 ≤ 2 ^ E := Nat.pow_le_pow_right two_pos two
    omega

/-- R142: on the top range of the format the biased exponent is the largest finite one, and the operand truncates to
the largest significand. -/
theorem truncated_of_top_range {e : Int} {m : Nat} {d : Descriptor} {f : Nat} (hm : 1 ≤ m) (hfM : 1 ≤ f + d.m)
    (low : (fieldSignificand f (allOnes d.m) d : ℚ) * gridStep d (max (f : Int) 1) ≤ (m : ℚ) * 2 ^ e)
    (high : (m : ℚ) * 2 ^ e < gridStep d (f + d.m + 1)) :
    biasedExponent e m d = f ∧ truncated e m d (max (f : Int) 1) = fieldSignificand f (allOnes d.m) d := by
  obtain ⟨k, next, place⟩ := fieldSignificand_largest f d
  have atLeast := le_truncated_iff.mpr low
  have below := (operand_lt_gridStep_iff hm).mp high
  have atMost : truncated e m d (max (f : Int) 1) < 2 ^ k := (truncated_lt_two_pow_iff hm).mpr (by omega)
  have leading : ¬ truncated e m d (max (f : Int) 1) < 2 ^ (k - 1) := by
    have half : 2 ^ k = 2 ^ (k - 1) * 2 := by rw [← pow_succ]; congr 1; omega
    have pos : 0 < 2 ^ (k - 1) := by positivity
    omega
  rw [truncated_lt_two_pow_iff hm] at leading
  omega

theorem top_exponent_cast {E : Nat} (he : 1 ≤ E) : ((2 ^ E - 2 : Nat) : Int) = 2 ^ E - 2 := by
  have room : 2 ^ 1 ≤ 2 ^ E := Nat.pow_le_pow_right two_pos he
  rw [Nat.cast_sub (by omega), Nat.cast_pow, Nat.cast_ofNat]

/-- R142: every operand of the top range encodes as the largest finite encoding. -/
theorem encodeBits_of_top_range {e : Int} {m : Nat} {d : Descriptor} (he : 1 ≤ d.e) (hsize : 2 ≤ d.e + d.m)
    (hm : 1 ≤ m)
    (low : (fieldSignificand (2 ^ d.e - 2) (allOnes d.m) d : ℚ) * gridStep d (max ((2 ^ d.e - 2 : Nat) : Int) 1) ≤
      (m : ℚ) * 2 ^ e)
    (high : (m : ℚ) * 2 ^ e < gridStep d ((2 ^ d.e - 2 : Nat) + d.m + 1)) (s : Bool) :
    biasedExponent e m d = (2 ^ d.e - 2 : Nat) ∧
      encodeBits (.finite s e m) d = some (largestFinite d s) := by
  obtain ⟨biased, truncates⟩ := truncated_of_top_range hm (one_le_top_add he hsize) low high
  have finite : biasedExponent e m d < allOnes d.e := by rw [biased, top_exponent_cast he, allOnes_cast]; omega
  obtain ⟨B, encoded⟩ := exists_encoding finite s
  obtain ⟨sign, exponent, -, significand⟩ := encodeBits_fields he hm encoded
  obtain ⟨topSign, topExponent, topMantissa⟩ := largestFinite_fields d s
  have sameExponent : exponentField B d = 2 ^ d.e - 2 := by omega
  rw [biased, truncates, sameExponent] at significand
  have same := eq_of_fields_eq (encodeBits_length encoded) (largestFinite_length d s) (sign.trans topSign.symm)
    (sameExponent.trans topExponent.symm) ((fieldSignificand_inj significand).trans topMantissa.symm)
  exact ⟨biased, same ▸ encoded⟩

/-- Settles O17: the encoder truncates to the grid of its exponent, where nothing representable lies above it; the top
range fixes the exponent and the significand, hence the bits. -/
theorem encoderTruncatesTowardZero : Obligations.EncoderTruncatesTowardZero := by
  refine ⟨?truncates, ?topRange⟩
  case truncates =>
    intro s e m d B he hm h
    obtain ⟨sign, exponent, below, significand⟩ := encodeBits_fields he hm h
    refine ⟨sign, exponent, below, ?zero, _, magnitude_encodeBits he hm h, le_truncated_iff.mp le_rfl, ?largest⟩
    case zero =>
      rw [← fieldSignificand_eq_zero_iff (d := d), significand, truncated_eq_zero_iff hm]
      omega
    case largest =>
      intro B' q' hB' hq' hle
      rw [magnitude_decodeBits hB' he (exponentField_lt_of_magnitude hB' hq'), Option.some.injEq] at hq'
      subst hq'
      exact representable_le_truncated hm (fieldSignificand_lt (mantissaField_lt B' d) _) (le_max_right _ _) hle
  case topRange =>
    intro s e m d B q he hsize hm hB hq low high
    obtain rfl : B = largestFinite d s := by simp [hB, largestFinite, assemble, copies]
    have length := largestFinite_length d s
    obtain ⟨-, exponent, mantissa⟩ := largestFinite_fields d s
    rw [magnitude_decodeBits length he (exponentField_lt_of_magnitude length hq), Option.some.injEq, exponent,
      mantissa] at hq
    have limit : (2 : ℚ) ^ ((2 : Int) ^ d.e - 1 - d.bias) = gridStep d ((2 ^ d.e - 2 : Nat) + d.m + 1) := by
      rw [gridStep, top_exponent_cast he]
      congr 1
      ring
    obtain ⟨biased, encoded⟩ := encodeBits_of_top_range he hsize hm (hq ▸ low) (limit ▸ high) s
    exact ⟨biased.trans (top_exponent_cast he), encoded⟩

end Sys2Proof.Machine
end

section
/-!
PROOFS. What `DecodeBits` answers (R166 to R169, R172, R173), and the step that ends a `DEC` (R170). One inversion lemma
says what the fields of an encoding are when it decodes to a finite number; the ranges follow from it.
-/
namespace Sys2Proof.Machine

/-! ## When an encoding decodes to a finite number -/

/-- R168, R169: normalising moves a power of two from the significand to the exponent and leaves it odd. -/
theorem normalise_eq_finite {mant0 f m : Nat} {s s' : Bool} {base bias e : Int} (pos : 0 < mant0)
    (h : normalise s mant0 base f bias = .finite s' e m) :
    s' = s ∧ m % 2 = 1 ∧ ∃ t : Nat, m * 2 ^ t = mant0 ∧ e = base + t + f - bias := by
  obtain ⟨whole, odd⟩ := ctz_spec pos
  rw [normalise, Number.finite.injEq] at h
  obtain ⟨rfl, rfl, rfl⟩ := h
  exact ⟨rfl, odd, ctz mant0, Nat.div_mul_cancel (Nat.dvd_of_mod_eq_zero whole), rfl⟩

/-- R164 to R169: the fields behind a finite number. The exponent field is not all ones, and the significand is the odd
mantissa with some number of zero bits after it, which the exponent makes up for. -/
theorem decodeBits_eq_finite {B : List Bool} {d : Descriptor} {s : Bool} {e : Int} {m : Nat}
    (h : decodeBits B d = .finite s e m) :
    s = signOf B ∧ exponentField B d < allOnes d.e ∧ m % 2 = 1 ∧
    ∃ t : Nat, m * 2 ^ t = fieldSignificand (exponentField B d) (mantissaField B d) d ∧
      e = t + max (exponentField B d : Int) 1 - d.m - d.bias := by
  have fits := exponentField_lt B d
  rw [decodeBits] at h
  generalize exponentField B d = f, mantissaField B d = mf at *
  obtain rfl | below : f = allOnes d.e ∨ f < allOnes d.e := by rw [allOnes]; omega
  · rw [decodeFields_allOnes] at h
    split at h <;> cases h
  obtain rfl | pos := Nat.eq_zero_or_pos f
  · have he : 1 ≤ d.e := Nat.pos_of_ne_zero fun none => by simp [none, allOnes] at below
    rw [decodeFields_zero he] at h
    split at h
    · cases h
    next hmf =>
      obtain ⟨sign, odd, t, significand, exponent⟩ := normalise_eq_finite (Nat.pos_of_ne_zero hmf) h
      exact ⟨sign, below, odd, t, significand, by omega⟩
  · rw [decodeFields_between pos below] at h
    obtain ⟨sign, odd, t, significand, exponent⟩ := normalise_eq_finite (by positivity) h
    exact ⟨sign, below, odd, t, by rw [fieldSignificand, if_neg pos.ne', significand], by omega⟩

/-- Zero bits after a number count in full. -/
theorem bitLength_mul_two_pow {m : Nat} (hm : 0 < m) (t : Nat) : bitLength (m * 2 ^ t) = bitLength m + t := by
  have top : (m * 2 ^ t).log2 = m.log2 + t := by
    rw [Nat.log2_eq_iff (by positivity), Nat.add_right_comm, pow_add, pow_add]
    exact ⟨Nat.mul_le_mul_right _ (Nat.log2_self_le hm.ne'),
      Nat.mul_lt_mul_of_pos_right Nat.lt_log2_self (by positivity)⟩
  have product : m * 2 ^ t ≠ 0 := by positivity
  rw [bitLength, bitLength, if_neg product, if_neg hm.ne', top]
  omega

/-- Settles O29: the mantissa is odd, and no larger than the significand it comes from. -/
theorem decodedMantissaIsOdd : Obligations.DecodedMantissaIsOdd := by
  intro B d s e m h
  obtain ⟨-, -, odd, t, significand, -⟩ := decodeBits_eq_finite h
  have bound : m < 2 ^ (d.m + 1) :=
    calc m
      _ ≤ m * 2 ^ t := Nat.le_mul_of_pos_right m (by positivity)
      _ < 2 ^ (d.m + 1) := significand ▸ fieldSignificand_lt (mantissaField_lt B d) _
  exact ⟨odd, by omega, by omega⟩

/-- Settles O30: the bits of the mantissa and the zero bits after it fit the significand: `M` bits when subnormal, one
more when normal. -/
theorem decodedRanges : Obligations.DecodedRanges := by
  intro B d s e m _ _ h
  obtain ⟨-, below, odd, t, significand, exponent⟩ := decodeBits_eq_finite h
  have hm : 0 < m := by omega
  have length : bitLength (fieldSignificand (exponentField B d) (mantissaField B d) d) = bitLength m + t :=
    significand ▸ bitLength_mul_two_pow hm t
  have oneBit : 1 ≤ bitLength m := by rw [bitLength, if_neg hm.ne']; omega
  have top := allOnes_cast d.e
  have mantissa := mantissaField_lt B d
  by_cases subnormal : exponentField B d = 0
  · have short : bitLength m + t ≤ d.m := by
      rw [← length, fieldSignificand, if_pos subnormal]
      exact bitLength_le_of_lt mantissa
    omega
  · have short : bitLength m + t ≤ d.m + 1 := length ▸ bitLength_le_of_lt (fieldSignificand_lt mantissa _)
    omega

/-! ## The last bit of a `DEC` (R162, R170) -/

/-- R162: with a bit left in the byte in hand, a running `DEC` that is set up takes it. -/
theorem exec_dec_deliver {s : State} (hb : s.status.busy = true) (phase : s.phase = .dec) (opened : s.opened = true)
    (hp : s.pend = .none) (hm : s.rmask ≠ 0x00) :
    exec .dec s = decAdvance (s.rcur &&& s.rmask != 0) { s with rmask := s.rmask >>> 1 } := by
  rw [exec, execDec_running hb phase, if_pos opened, decRead, readBit_deliver hp hm]

theorem decAdvance_last {b : Bool} {s : State} (last : s.k + 1 = s.lat.descriptor.n) :
    decAdvance b s = decFinish { s with buf := s.buf ++ [b], k := s.lat.descriptor.n } := by
  rw [decAdvance, last, if_neg (lt_irrefl _)]

theorem decFinish_fits {s : State} (fits : resultFits s.params (decodeBits s.buf s.lat.descriptor) = true) :
    decFinish s = .next (complete (writeResult (decodeBits s.buf s.lat.descriptor) s)) :=
  if_pos fits

/-- Settles O33: the last bit goes to `decFinish`, which writes the results and completes; the table is read off
`outKindOf`, `outExpOf` and `outMantOf`. -/
theorem decWritesItsResult : Obligations.DecWritesItsResult := by
  refine ⟨?lastBit, ?table⟩
  case lastBit =>
    rintro s _ hb phase opened hp hm last rfl fits
    calc exec .dec s
      _ = decAdvance (s.rcur &&& s.rmask != 0) { s with rmask := s.rmask >>> 1 } :=
        exec_dec_deliver hb phase opened hp hm
      _ = decFinish _ := decAdvance_last last
      _ = _ := decFinish_fits fits
  case table =>
    intro g e m
    cases g <;> exact ⟨⟨rfl, rfl, rfl⟩, ⟨rfl, rfl, rfl⟩, ⟨rfl, rfl, rfl⟩, rfl, rfl, rfl⟩

end Sys2Proof.Machine
end

section
/-!
PROOFS. How a running command ends (R180) and how it hangs (R200). While `BUSY = 1` a move of the host keeps the
sequencer and the ports, so both statements turn on the block's own move: it goes on, completes, or raises an error,
and without an answer it changes nothing.
-/
namespace Sys2Proof.Machine

/-! ## A step while a command runs -/

/-- The sequencer and the ports are as they were, and no move has joined those to come. -/
structure SequencerKept (s t : State) : Prop where
  busy   : t.status.busy = s.status.busy
  phase  : t.phase = s.phase
  opened : t.opened = s.opened
  pend   : t.pend = s.pend
  source : t.source = s.source
  sink   : t.sink = s.sink
  drawn  : t.drawn = s.drawn
  sunk   : t.sunk = s.sunk
  inputs : t.inputs ⊆ s.inputs

theorem SequencerKept.refl (s : State) : SequencerKept s s :=
  ⟨rfl, rfl, rfl, rfl, rfl, rfl, rfl, rfl, List.Subset.refl _⟩

theorem SequencerKept.trans {s t u : State} (first : SequencerKept s t) (second : SequencerKept t u) :
    SequencerKept s u where
  busy := second.busy.trans first.busy
  phase := second.phase.trans first.phase
  opened := second.opened.trans first.opened
  pend := second.pend.trans first.pend
  source := second.source.trans first.source
  sink := second.sink.trans first.sink
  drawn := second.drawn.trans first.drawn
  sunk := second.sunk.trans first.sunk
  inputs := List.Subset.trans second.inputs first.inputs

theorem sequencerKept_of_inputs {s : State} {rest : List Input} (h : rest ⊆ s.inputs) :
    SequencerKept s { s with inputs := rest } :=
  ⟨rfl, rfl, rfl, rfl, rfl, rfl, rfl, rfl, h⟩

theorem sequencerKept_hostRead (r : RegNo) (s : State) : SequencerKept s (hostRead r s) :=
  ⟨rfl, rfl, rfl, rfl, rfl, rfl, rfl, rfl, List.Subset.refl _⟩

theorem sequencerKept_writeRegister (r : RegNo) (v : Int) (s : State) : SequencerKept s (writeRegister r v s) := by
  constructor <;> simp

/-- R214, R216: short of reset, what moves a running command is the block's own move alone. -/
theorem step_cases_of_busy {s t : State} (hb : s.status.busy = true) (noReset : ¬ResetNext s)
    (h : step s = .next t) :
    SequencerKept s t ∨ ∃ rest, rest ⊆ s.inputs ∧ blockStep { s with inputs := rest } = .next t := by
  have tail {i : Input} {rest : List Input} (hi : s.inputs = i :: rest) : rest ⊆ s.inputs :=
    hi ▸ List.subset_cons_self i rest
  rcases step_cases h with ⟨c, rest, hi, _⟩ | ⟨r, v, rest, hi, h⟩ | ⟨r, rest, hi, rfl⟩ | ⟨_, _, idle, _⟩ |
    ⟨rest, hi, h⟩
  case inl => exact absurd ⟨c, rest, hi⟩ noReset
  case inr.inl =>
    have taken := sequencerKept_of_inputs (tail hi)
    rcases hostWrite_cases h with ⟨_, _, rfl⟩ | ⟨_, idle, _⟩ | ⟨_, idle, _⟩ | ⟨_, rfl⟩
    · exact .inl taken
    · exact absurd (hb.symm.trans idle) (by decide)
    · exact absurd (hb.symm.trans idle) (by decide)
    · exact .inl (taken.trans (sequencerKept_writeRegister r v _))
  case inr.inr.inl => exact .inl ((sequencerKept_of_inputs (tail hi)).trans (sequencerKept_hostRead r _))
  case inr.inr.inr.inl => exact absurd (hb.symm.trans idle) (by decide)
  case inr.inr.inr.inr =>
    rcases hi with rfl | hi
    · exact .inr ⟨s.inputs, List.Subset.refl _, h⟩
    · exact .inr ⟨rest, tail hi, h⟩

theorem blockStep_of_idle {s : State} (idle : s.status.busy = false) : blockStep s = .next s := by
  simp [blockStep, idle]

theorem blockStep_running {s : State} {i : Instr} (hb : s.status.busy = true) (hr : runningCommand s = some i) :
    blockStep s = exec i s := by
  rw [blockStep, if_pos hb]
  unfold runningCommand at hr
  split at hr <;> cases hr <;> simp [*]

/-! ## What a running command's step can be (R180) -/

/-- The command goes on, or completes with no request pending. -/
def GoesOnOrCompletes (t : State) : Prop := t.status.busy = true ∨ ∃ u, t = complete u ∧ u.pend = .none

/-- What a command does with a bit: it raises no error of its own. -/
def NeverRaises (f : State → Out) : Prop :=
  ∀ u t : State, f u = .next t → u.status.busy = true → u.pend = .none → GoesOnOrCompletes t

/-- The result registers, `RBIT` and the operand registers are as they were. -/
def ResultsAndOperandsKept (s t : State) : Prop :=
  t.outKind = s.outKind ∧ t.outExp = s.outExp ∧ t.outMant = s.outMant ∧ t.status.rbit = s.status.rbit ∧
  t.fmtE = s.fmtE ∧ t.fmtM = s.fmtM ∧ t.fmtBias = s.fmtBias ∧ t.inKind = s.inKind ∧ t.inExp = s.inExp ∧
  t.inMant = s.inMant

theorem ResultsAndOperandsKept.refl (s : State) : ResultsAndOperandsKept s s :=
  ⟨rfl, rfl, rfl, rfl, rfl, rfl, rfl, rfl, rfl, rfl⟩

/-- The command ends with an error other than `IllegalCommand`, its results unwritten. -/
def RaisesError (s t : State) : Prop :=
  ∃ e u, t = raise e u ∧ e ≠ .illegalCommand ∧ u.pend = .none ∧ ResultsAndOperandsKept s u

/-- R180: the command goes on, completes or raises. -/
def RunsOrEnds (s t : State) : Prop := GoesOnOrCompletes t ∨ RaisesError s t

theorem raisesError {e : ErrorKind} {s : State} (he : e ≠ .illegalCommand) (hp : s.pend = .none) :
    RaisesError s (raise e s) :=
  ⟨e, s, rfl, he, hp, .refl s⟩

theorem raisesError_sourceFailed (rest : List SrcAnswer) (s : State) : RaisesError s (sourceFailed rest s) :=
  ⟨.ioFailure, _, rfl, by decide, rfl, .refl s⟩

theorem raisesError_sinkFailed (rest : List SnkAnswer) (s : State) : RaisesError s (sinkFailed rest s) :=
  ⟨.ioFailure, _, rfl, by decide, rfl, .refl s⟩

/-- A bit is awaited, given to the command, or lost with its fetch. -/
theorem readBit_runsOrEnds {cont : Bool → State → Out} (hc : ∀ b, NeverRaises (cont b)) {s t : State}
    (h : readBit cont s = .next t) (hb : s.status.busy = true) : RunsOrEnds s t := by
  rcases readBit_cases h with ⟨_, rfl⟩ | ⟨_, _, rfl⟩ | ⟨hp, _, h⟩ | ⟨rest, _, _, rfl⟩ | ⟨b, rest, _, _, h⟩
  case inl => exact .inl (.inl hb)
  case inr.inl => exact .inl (.inl hb)
  case inr.inr.inl => exact .inl (hc _ _ t h hb hp)
  case inr.inr.inr.inl => exact .inr (raisesError_sourceFailed rest s)
  case inr.inr.inr.inr => exact .inl (hc _ _ t h hb rfl)

/-- A bit is stored, sent and awaited, or lost with its byte. -/
theorem writeBit_runsOrEnds {b : Bool} {cont : State → Out} (hc : NeverRaises cont) {s t : State}
    (h : writeBit b cont s = .next t) (hb : s.status.busy = true) : RunsOrEnds s t := by
  rcases writeBit_cases h with ⟨_, rfl⟩ | ⟨_, _, rfl⟩ | ⟨hp, _, h⟩ | ⟨_, rest, _, _, rfl⟩ | ⟨_, rest, _, _, h⟩
  case inl => exact .inl (.inl hb)
  case inr.inl => exact .inl (.inl hb)
  case inr.inr.inl => exact .inl (hc _ t h hb hp)
  case inr.inr.inr.inl => exact .inr (raisesError_sinkFailed rest s)
  case inr.inr.inr.inr => exact .inl (hc _ t h hb rfl)

theorem decAdvance_neverRaises (b : Bool) : NeverRaises (decAdvance b) := by
  intro u t h hb hp
  rcases decAdvance_cases h with ⟨_, rfl⟩ | ⟨_, rfl⟩
  · exact .inl hb
  · exact .inr ⟨_, rfl, hp⟩

theorem encAdvance_neverRaises : NeverRaises encAdvance := by
  intro u t h hb hp
  rcases encAdvance_cases h with ⟨_, rfl⟩ | ⟨_, rfl⟩
  · exact .inl hb
  · exact .inr ⟨_, rfl, hp⟩

theorem rdbDeliver_neverRaises (b : Bool) : NeverRaises (rdbDeliver b) := by
  intro u t h _ hp
  cases h
  exact .inr ⟨_, rfl, hp⟩

theorem completing_neverRaises : NeverRaises (fun t => .next (complete t)) := by
  intro u t h _ hp
  cases h
  exact .inr ⟨u, rfl, hp⟩

/-! ## The running commands -/

/-- R131, R161: the errors of the shared checks. -/
theorem checkFormat_ne_illegalCommand {p : Params} {d : Descriptor} {e : ErrorKind}
    (h : checkFormat p d = some e) : e ≠ .illegalCommand := by
  unfold checkFormat at h
  split_ifs at h <;> cases h <;> decide

/-- R131, R133, R140: the errors of the checks of `ENC`. -/
theorem encPrepare_ne_illegalCommand {p : Params} {l : Latched} {e : ErrorKind}
    (h : encPrepare p l = .error e) : e ≠ .illegalCommand := by
  unfold encPrepare at h
  split at h
  next checked =>
    cases h
    exact checkFormat_ne_illegalCommand checked
  · split at h
    · cases h
      decide
    · split at h <;> cases h
      decide

theorem decOpen_runsOrEnds {s t : State} (hb : s.status.busy = true) (hp : s.pend = .none)
    (h : decOpen s = .next t) : RunsOrEnds s t := by
  unfold decOpen at h
  split at h
  next checked =>
    cases h
    exact .inr (raisesError (checkFormat_ne_illegalCommand checked) hp)
  · have runs := readBit_runsOrEnds decAdvance_neverRaises h hb
    exact runs

theorem encOpen_runsOrEnds {s t : State} (hb : s.status.busy = true) (hp : s.pend = .none)
    (h : encOpen s = .next t) : RunsOrEnds s t := by
  unfold encOpen at h
  split at h
  next checked =>
    cases h
    exact .inr (raisesError (encPrepare_ne_illegalCommand checked) hp)
  · have runs := writeBit_runsOrEnds encAdvance_neverRaises h hb
    exact runs

theorem rdbRun_runsOrEnds {s t : State} (hb : s.status.busy = true) (h : rdbRun s = .next t) : RunsOrEnds s t := by
  unfold rdbRun at h
  split at h
  next refused =>
    cases h
    exact .inr (raisesError (by decide) refused.1)
  · exact readBit_runsOrEnds rdbDeliver_neverRaises h hb

theorem wrbRun_runsOrEnds {s t : State} (hb : s.status.busy = true) (h : wrbRun s = .next t) : RunsOrEnds s t := by
  unfold wrbRun at h
  split at h
  next refused =>
    cases h
    exact .inr (raisesError (by decide) refused.1)
  · exact writeBit_runsOrEnds completing_neverRaises h hb

/-- R49, R69: an `ENC` or `DEC` that is not yet set up has asked for nothing. -/
theorem ControlInv.pend_none_of_not_opened {s : State} (inv : ControlInv s) (phase : s.phase = .enc ∨ s.phase = .dec)
    (ho : s.opened = false) : s.pend = .none := by
  cases hp : s.pend with
  | none => rfl
  | src =>
    have asked := (inv.pend_src hp).1
    rcases phase with phase | phase <;> simp [phase, ho] at asked
  | snk b =>
    have asked := (inv.pend_snk b hp).1
    rcases phase with phase | phase <;> simp [phase, ho] at asked

theorem ControlInv.withInputs {s : State} (inv : ControlInv s) (rest : List Input) :
    ControlInv { s with inputs := rest } :=
  ⟨inv.idle_iff_not_busy, inv.busy_clears, inv.err_ne_seven, inv.opened_phase, inv.pend_src, inv.pend_snk⟩

/-- R180: the block's own move while a command runs. -/
theorem blockStep_runsOrEnds {s t : State} (inv : ControlInv s) (hb : s.status.busy = true)
    (h : blockStep s = .next t) : RunsOrEnds s t := by
  rcases blockStep_cases h with ⟨_, rfl⟩ | ⟨_, phase, h⟩ | ⟨_, phase, h⟩ | ⟨_, phase, h⟩ | ⟨_, phase, h⟩
  case inl => exact .inl (.inl hb)
  case inr.inl =>
    rw [execEnc_running hb phase] at h
    split at h
    next => exact writeBit_runsOrEnds encAdvance_neverRaises h hb
    next ho => exact encOpen_runsOrEnds hb (inv.pend_none_of_not_opened (.inl phase) (by simpa using ho)) h
  case inr.inr.inl =>
    rw [execDec_running hb phase] at h
    split at h
    next => exact readBit_runsOrEnds decAdvance_neverRaises h hb
    next ho => exact decOpen_runsOrEnds hb (inv.pend_none_of_not_opened (.inr phase) (by simpa using ho)) h
  case inr.inr.inr.inl => exact rdbRun_runsOrEnds hb (execRdb_running hb phase ▸ h)
  case inr.inr.inr.inr => exact wrbRun_runsOrEnds hb (execWrb_running hb phase s.lat.wbit ▸ h)

/-- R180: any step but reset, while a command runs. -/
theorem step_runsOrEnds {s t : State} (inv : ControlInv s) (hb : s.status.busy = true) (noReset : ¬ResetNext s)
    (h : step s = .next t) : RunsOrEnds s t := by
  rcases step_cases_of_busy hb noReset h with kept | ⟨rest, _, h⟩
  · exact .inl (.inl (kept.busy.trans hb))
  · have runs := blockStep_runsOrEnds (inv.withInputs rest) hb h
    exact runs

/-- Settles O44: a step that ends a command is a `complete` or a `raise`, whose fields are known. -/
theorem commandsEndInOneStep : Obligations.CommandsEndInOneStep := by
  refine ⟨?ends, ?idleMove, ?idleAlone⟩
  case ends =>
    intro s t inv hb noReset h idle
    rcases step_runsOrEnds inv.control hb noReset h with (busy | ⟨u, rfl, hp⟩) | ⟨e, u, rfl, he, hp, kept⟩
    · exact absurd (busy.symm.trans idle) (by decide)
    · exact ⟨rfl, rfl, hp, .inl rfl, fun err => absurd rfl err⟩
    · exact ⟨rfl, rfl, hp, .inr ⟨e, rfl, he⟩, fun _ => kept⟩
  case idleMove =>
    intro s rest idle hi
    rw [step, hi]
    exact blockStep_of_idle idle
  case idleAlone =>
    intro s idle hi
    rw [step, hi]
    exact blockStep_of_idle idle

/-! ## An unanswered request (R200) -/

theorem readBit_unanswered {cont : Bool → State → Out} {s : State} (hp : s.pend = .src) (hs : s.source = []) :
    readBit cont s = .next s := by
  simp only [readBit, hp, receiveSource, hs]

theorem writeBit_unanswered {out : Byte} {bit : Bool} {cont : State → Out} {s : State} (hp : s.pend = .snk out)
    (hs : s.sink = []) : writeBit bit cont s = .next s := by
  simp only [writeBit, hp, receiveSink, hs]

/-- A running command waits for an answer that does not come. -/
structure Hangs (s : State) : Prop where
  busy : s.status.busy = true
  waits : (s.pend = .src ∧ s.source = [] ∧ ((s.phase = .dec ∧ s.opened = true) ∨ s.phase = .rdb)) ∨
    ∃ b, s.pend = .snk b ∧ s.sink = [] ∧ ((s.phase = .enc ∧ s.opened = true) ∨ s.phase = .wrb)

/-- R44: a phase other than `IDLE` is that of a running command. -/
theorem ControlInv.busy_of_phase {s : State} (inv : ControlInv s) (phase : s.phase ≠ .idle) :
    s.status.busy = true := by
  simpa using mt inv.idle_iff_not_busy.mpr phase

/-- R49, R69: only a command that uses the port has a request pending there. -/
theorem ControlInv.hangs {s : State} (inv : ControlInv s) (unanswered : Unanswered s) : Hangs s := by
  rcases unanswered with ⟨hp, hs⟩ | ⟨b, hp, hs⟩
  · have phase := (inv.pend_src hp).1
    refine ⟨inv.busy_of_phase fun idle => ?_, .inl ⟨hp, hs, phase⟩⟩
    simp [idle] at phase
  · have phase := (inv.pend_snk b hp).1
    refine ⟨inv.busy_of_phase fun idle => ?_, .inr ⟨b, hp, hs, phase⟩⟩
    simp [idle] at phase

theorem Hangs.of_sequencerKept {s t : State} (hangs : Hangs s) (kept : SequencerKept s t) : Hangs t := by
  obtain ⟨busy, waits⟩ := hangs
  refine ⟨kept.busy.trans busy, ?_⟩
  rw [kept.pend, kept.source, kept.sink, kept.phase, kept.opened]
  exact waits

/-- R200: whichever command waits, its next step changes nothing. -/
theorem Hangs.blockStep_eq {s : State} (hangs : Hangs s) : blockStep s = .next s := by
  obtain ⟨hb, ⟨hp, hs, ⟨phase, opened⟩ | phase⟩ | ⟨b, hp, hs, ⟨phase, opened⟩ | phase⟩⟩ := hangs
  · rw [blockStep_running hb (i := .dec) (by simp [runningCommand, phase]), exec, execDec_running hb phase,
      if_pos opened]
    exact readBit_unanswered hp hs
  · rw [blockStep_running hb (i := .rdb) (by simp [runningCommand, phase]),
      exec_rdb_of_not_refused hb phase (by simp [hp])]
    exact readBit_unanswered hp hs
  · rw [blockStep_running hb (i := .enc) (by simp [runningCommand, phase]), exec, execEnc_running hb phase,
      if_pos opened]
    exact writeBit_unanswered hp hs
  · rw [blockStep_running hb (i := .wrb s.lat.wbit) (by simp [runningCommand, phase]),
      exec_wrb_of_not_refused _ hb phase (by simp [hp])]
    exact writeBit_unanswered hp hs

/-- R200: short of reset, no move ends the wait. -/
theorem Hangs.step_kept {s t : State} (hangs : Hangs s) (noReset : ¬ResetNext s) (h : step s = .next t) :
    SequencerKept s t := by
  rcases step_cases_of_busy hangs.busy noReset h with kept | ⟨rest, sub, h⟩
  · exact kept
  · have taken := sequencerKept_of_inputs sub
    rw [(hangs.of_sequencerKept taken).blockStep_eq] at h
    cases h
    exact taken

theorem not_resetNext {s : State} (noReset : ∀ c, Input.reset c ∉ s.inputs) : ¬ResetNext s :=
  fun ⟨c, _, hi⟩ => noReset c (by simp [hi])

theorem Hangs.runSteps_kept {n : Nat} {s t : State} (hangs : Hangs s) (noReset : ∀ c, Input.reset c ∉ s.inputs)
    (h : runSteps n s = .next t) : SequencerKept s t := by
  induction n generalizing s with
  | zero =>
    cases h
    exact .refl _
  | succ n ih =>
    rw [runSteps_succ] at h
    cases hu : step s with
    | next u =>
      rw [hu, andThen_next] at h
      have first := hangs.step_kept (not_resetNext noReset) hu
      exact first.trans (ih (hangs.of_sequencerKept first) (fun c hc => noReset c (first.inputs hc)) h)
    | fault r => exact nomatch r
    | refused r => simp [hu, andThen] at h

/-- Settles O49: with a request unanswered the command hangs, and every step but reset keeps its wait. -/
theorem unansweredTransactionHangs : Obligations.UnansweredTransactionHangs := by
  refine ⟨?alone, ?run⟩
  case alone =>
    intro s inv unanswered hi
    rw [step, hi]
    exact (inv.control.hangs unanswered).blockStep_eq
  case run =>
    intro n s t inv unanswered noReset h
    have hangs := inv.control.hangs unanswered
    have kept := hangs.runSteps_kept noReset h
    exact ⟨kept.busy.trans hangs.busy, kept.pend, kept.sunk, kept.drawn⟩

end Sys2Proof.Machine
end

section
/-!
PROOFS. A `CTRL` write while a command runs (R214), and the reset input (R210, R211): reset first lets the collaborator
carry out a pending transaction, which touches the ports alone, and then resets the block.
-/
namespace Sys2Proof.Machine

/-! ## A `CTRL` write while `BUSY = 1` (R214) -/

theorem writeCtrl_of_busy {s : State} (busy : s.status.busy = true) (v : Int) : writeCtrl v s = .next s := by
  rw [writeCtrl, if_pos busy]

/-- Settles O4: the step takes the write off the list and hands it to `writeCtrl`, which ignores it. -/
theorem ctrlWriteWhileBusyIgnored : Obligations.CtrlWriteWhileBusyIgnored := by
  intro s v rest hi busy
  rw [step_write_ctrl hi, writeCtrl_of_busy]
  exact busy

/-! ## The reset input (R210, R211) -/

theorem step_reset {s : State} {c : Bool} {rest : List Input} (hi : s.inputs = .reset c :: rest) :
    step s = .next (applyReset c { s with inputs := rest }) := by
  simp only [step, hi, takeInput]

/-- R211: carrying out a pending transaction moves the source and the sink, and the bytes they gave up and stored. -/
theorem carryOutPending_ports (s : State) : ∃ source sink drawn sunk,
    carryOutPending s = { s with source := source, sink := sink, drawn := drawn, sunk := sunk } := by
  unfold carryOutPending
  repeat' split
  all_goals exact ⟨_, _, _, _, rfl⟩

theorem carryOutPending_of_none {s : State} (hp : s.pend = .none) : carryOutPending s = s := by
  simp only [carryOutPending, hp]

/-- R210, R211: whatever the collaborator does, reset differs from `resetBlock` in the ports alone. -/
theorem applyReset_ports (c : Bool) (s : State) : ∃ source sink drawn sunk,
    applyReset c s = { resetBlock s with source := source, sink := sink, drawn := drawn, sunk := sunk } := by
  cases c with
  | false => exact ⟨_, _, _, _, rfl⟩
  | true =>
    obtain ⟨source, sink, drawn, sunk, carried⟩ := carryOutPending_ports s
    refine ⟨source, sink, drawn, sunk, ?_⟩
    rw [applyReset, if_pos rfl, carried]
    rfl

/-- R210, R211: with no transaction carried out, reset is `resetBlock`. -/
theorem applyReset_eq_resetBlock {c : Bool} {s : State} (quiet : c = false ∨ s.pend = .none) :
    applyReset c s = resetBlock s := by
  rcases quiet with rfl | hp
  · rfl
  · rw [applyReset, carryOutPending_of_none hp, ite_self]

theorem applyReset_keeps_ports {c : Bool} {s : State} (quiet : c = false ∨ s.pend = .none) :
    (applyReset c s).source = s.source ∧ (applyReset c s).sink = s.sink ∧
      (applyReset c s).drawn = s.drawn ∧ (applyReset c s).sunk = s.sunk := by
  rw [applyReset_eq_resetBlock quiet]
  exact ⟨rfl, rfl, rfl, rfl⟩

theorem statusWord_atReset : statusWord Status.atReset = 0x00 := by decide

/-- Settles O50: the step is `applyReset`, which is `resetBlock` up to the ports, and moves those only for a pending
transaction carried out. -/
theorem resetInputResetsTheBlock : Obligations.ResetInputResetsTheBlock := by
  intro s c rest hi
  refine ⟨_, step_reset hi, ?_⟩
  have portsKept (quiet : c = false ∨ s.pend = .none) :=
    applyReset_keeps_ports (s := { s with inputs := rest }) quiet
  obtain ⟨source, sink, drawn, sunk, reset⟩ := applyReset_ports c { s with inputs := rest }
  rw [reset] at portsKept ⊢
  exact ⟨statusWord_atReset, rfl, rfl, rfl, rfl, rfl, rfl, rfl, rfl, rfl, rfl, rfl, rfl, rfl, rfl, rfl, rfl, rfl, rfl,
    rfl, rfl, rfl, portsKept⟩

end Sys2Proof.Machine
end

section
/-!
PROOFS. What the block does in one step, said once (R90, R110, R113, R222): a bit read, a bit written, a set-up, and the
moves of a running command as an inductive relation; and the induction over them for a property that every step keeps.
-/
namespace Sys2Proof.Machine

/-! ## A bit passes an adapter -/

/-- The reader delivers a bit (R110): one of the byte in hand, or the top bit of the byte just answered. -/
inductive BitRead (s : State) : Bool → State → Prop
  | inHand (quiet : s.pend = .none) (left : s.rmask ≠ 0x00) :
      BitRead s (s.rcur &&& s.rmask != 0) { s with rmask := s.rmask >>> 1 }
  | fetched (b : Byte) (rest : List SrcAnswer) (asked : s.pend = .src) (answer : s.source = .ok b :: rest) :
      BitRead s (b.getLsbD 7) { sourceAnswered b rest s with rmask := 0x40 }

/-- The writer is done with a bit (R113): it is stored, or the byte it completed is taken. -/
inductive BitWritten (bit : Bool) (s : State) : State → Prop
  | stored (quiet : s.pend = .none) (more : s.wmask >>> 1 ≠ 0x00) :
      BitWritten bit s { s with wacc := accumulate bit s, wmask := s.wmask >>> 1 }
  | taken (out : Byte) (rest : List SnkAnswer) (sent : s.pend = .snk out) (answer : s.sink = .ok :: rest) :
      BitWritten bit s (sinkAnswered out rest s)

/-! ## The moves of a running command -/

/-- The command that runs reads the source stream: a set-up `DEC`, or `RDB`. -/
def Reading (s : State) : Prop := (s.phase = .dec ∧ s.opened = true) ∨ s.phase = .rdb

/-- The command that runs writes the sink stream: a set-up `ENC`, or `WRB`. -/
def Writing (s : State) : Prop := (s.phase = .enc ∧ s.opened = true) ∨ s.phase = .wrb

/-- A `DEC` that has passed its checks (R161, R115). -/
def decReady (s : State) : State := { readerInit s with buf := [], k := 0, opened := true }

/-- An `ENC` that has passed its checks, with the encoding they answered (R130, R115). -/
def encReady (bits : List Bool) (s : State) : State := writerInit { s with buf := bits, k := 0, opened := true }

/-- What comes before the first bit of a command: nothing, or the set-up of `DEC` or `ENC` (log entry 2). -/
inductive SetUp (s : State) : State → Prop
  | none : SetUp s s
  | dec (phase : s.phase = .dec) (closed : s.opened = false)
      (checked : checkFormat s.params s.lat.descriptor = .none) : SetUp s (decReady s)
  | enc (bits : List Bool) (phase : s.phase = .enc) (closed : s.opened = false)
      (prepared : encPrepare s.params s.lat = .ok bits) : SetUp s (encReady bits s)

/-- One step of a running command, its set-up done. -/
inductive Move (s : State) : State → Prop
  | waits : Move s s
  | refuses (e : ErrorKind)
      (cause : (s.pend = .none ∧ (s.phase = .rdb ∨ s.phase = .wrb)) ∨
        (s.opened = false ∧ (s.phase = .enc ∨ s.phase = .dec))) : Move s (raise e s)
  | asks (reading : Reading s) (quiet : s.pend = .none) (empty : s.rmask = 0x00) : Move s { s with pend := .src }
  | fetchFails (rest : List SrcAnswer) (reading : Reading s) (asked : s.pend = .src)
      (answer : s.source = .fail :: rest) : Move s (sourceFailed rest s)
  | sends (bit : Bool) (writing : Writing s) (ofEnc : s.phase = .enc → bit = s.buf.getD s.k false)
      (quiet : s.pend = .none) (last : s.wmask >>> 1 = 0x00) :
      Move s { s with wacc := 0x00, wmask := 0x80, pend := .snk (accumulate bit s) }
  | sendFails (rest : List SnkAnswer) (out : Byte) (writing : Writing s) (sent : s.pend = .snk out)
      (answer : s.sink = .fail :: rest) : Move s (sinkFailed rest s)
  | decGoesOn {b : Bool} {u : State} (phase : s.phase = .dec) (opened : s.opened = true) (read : BitRead s b u)
      (more : u.k + 1 < u.lat.descriptor.n) : Move s { u with buf := u.buf ++ [b], k := u.k + 1 }
  | decEnds {b : Bool} {u : State} (phase : s.phase = .dec) (opened : s.opened = true) (read : BitRead s b u)
      (last : u.lat.descriptor.n ≤ u.k + 1)
      (fits : resultFits u.params (decodeBits (u.buf ++ [b]) u.lat.descriptor) = true) :
      Move s (complete (writeResult (decodeBits (u.buf ++ [b]) u.lat.descriptor)
        { u with buf := u.buf ++ [b], k := u.k + 1 }))
  | encGoesOn {u : State} (phase : s.phase = .enc) (opened : s.opened = true)
      (written : BitWritten (s.buf.getD s.k false) s u) (more : u.k + 1 < u.lat.descriptor.n) :
      Move s { u with k := u.k + 1 }
  | encEnds {u : State} (phase : s.phase = .enc) (opened : s.opened = true)
      (written : BitWritten (s.buf.getD s.k false) s u) (last : u.lat.descriptor.n ≤ u.k + 1) :
      Move s (complete { u with k := u.k + 1 })
  | rdbEnds {b : Bool} {u : State} (phase : s.phase = .rdb) (read : BitRead s b u) :
      Move s (complete { u with status := { u.status with rbit := b } })
  | wrbEnds {u : State} (phase : s.phase = .wrb) (written : BitWritten s.lat.wbit s u) : Move s (complete u)

/-- The next step of the command that runs: its set-up, where it has one to do, and a move. -/
def Runs (s t : State) : Prop := ∃ u, SetUp s u ∧ Move u t

/-! ## Every step of a running command is one of the moves -/

theorem readBit_move {cont : Bool → State → Out} {s t : State} (reading : Reading s) (h : readBit cont s = .next t)
    (deliver : ∀ b u, BitRead s b u → cont b u = .next t → Move s t) : Move s t := by
  rcases readBit_cases h with ⟨_, rfl⟩ | ⟨quiet, empty, rfl⟩ | ⟨quiet, left, h⟩ | ⟨rest, asked, answer, rfl⟩ |
    ⟨b, rest, asked, answer, _⟩
  case inl => exact .waits
  case inr.inl => exact .asks reading quiet empty
  case inr.inr.inl => exact deliver _ _ (.inHand quiet left) h
  case inr.inr.inr.inl => exact .fetchFails rest reading asked answer
  case inr.inr.inr.inr =>
    rw [readBit_answered asked answer] at h
    exact deliver _ _ (.fetched b rest asked answer) h

theorem writeBit_move {bit : Bool} {cont : State → Out} {s t : State} (writing : Writing s)
    (ofEnc : s.phase = .enc → bit = s.buf.getD s.k false) (h : writeBit bit cont s = .next t)
    (go : ∀ u, BitWritten bit s u → cont u = .next t → Move s t) : Move s t := by
  rcases writeBit_cases h with ⟨_, rfl⟩ | ⟨quiet, last, rfl⟩ | ⟨quiet, more, h⟩ | ⟨out, rest, sent, answer, rfl⟩ |
    ⟨out, rest, sent, answer, h⟩
  case inl => exact .waits
  case inr.inl => exact .sends bit writing ofEnc quiet last
  case inr.inr.inl => exact go _ (.stored quiet more) h
  case inr.inr.inr.inl => exact .sendFails rest out writing sent answer
  case inr.inr.inr.inr => exact go _ (.taken out rest sent answer) h

theorem decRead_move {s t : State} (phase : s.phase = .dec) (opened : s.opened = true)
    (h : decRead s = .next t) : Move s t := by
  refine readBit_move (.inl ⟨phase, opened⟩) h fun b u read h => ?_
  unfold decAdvance at h
  split at h
  next more =>
    cases h
    exact .decGoesOn phase opened read more
  next last =>
    obtain ⟨fits, rfl⟩ := decFinish_cases h
    exact .decEnds phase opened read (not_lt.mp last) fits

theorem encWrite_move {s t : State} (phase : s.phase = .enc) (opened : s.opened = true)
    (h : encWrite s = .next t) : Move s t := by
  refine writeBit_move (.inl ⟨phase, opened⟩) (fun _ => rfl) h fun u written h => ?_
  rcases encAdvance_cases h with ⟨more, rfl⟩ | ⟨last, rfl⟩
  · exact .encGoesOn phase opened written more
  · exact .encEnds phase opened written last

theorem decOpen_runs {s t : State} (phase : s.phase = .dec) (closed : s.opened = false)
    (h : decOpen s = .next t) : Runs s t := by
  unfold decOpen at h
  split at h
  next e _ =>
    cases h
    exact ⟨s, .none, .refuses e (.inr ⟨closed, .inr phase⟩)⟩
  next checked => exact ⟨_, .dec phase closed checked, decRead_move phase rfl h⟩

theorem encOpen_runs {s t : State} (phase : s.phase = .enc) (closed : s.opened = false)
    (h : encOpen s = .next t) : Runs s t := by
  unfold encOpen at h
  split at h
  next e _ =>
    cases h
    exact ⟨s, .none, .refuses e (.inr ⟨closed, .inl phase⟩)⟩
  next bits prepared => exact ⟨_, .enc bits phase closed prepared, encWrite_move phase rfl h⟩

theorem rdbRun_move {s t : State} (phase : s.phase = .rdb) (h : rdbRun s = .next t) : Move s t := by
  unfold rdbRun at h
  split at h
  next refused =>
    cases h
    exact .refuses _ (.inl ⟨refused.1, .inl phase⟩)
  · refine readBit_move (.inr phase) h fun b u read h => ?_
    cases h
    exact .rdbEnds phase read

theorem wrbRun_move {s t : State} (phase : s.phase = .wrb) (h : wrbRun s = .next t) : Move s t := by
  unfold wrbRun at h
  split at h
  next refused =>
    cases h
    exact .refuses _ (.inl ⟨refused.1, .inr phase⟩)
  · refine writeBit_move (.inr phase) (fun enc => by simp [phase] at enc) h fun u written h => ?_
    cases h
    exact .wrbEnds phase written

/-- The phase in which a command runs (R44); `SINIT` has none (R119). -/
def phaseOf : Instr → Phase
  | .enc   => .enc
  | .dec   => .dec
  | .rdb   => .rdb
  | .wrb _ => .wrb
  | .sinit => .idle

/-- R214: while another command runs, a command does nothing. -/
theorem exec_of_other_running {i : Instr} {s : State} (busy : s.status.busy = true) (other : s.phase ≠ phaseOf i) :
    exec i s = .next s := by
  cases i with
  | enc => rw [exec, execEnc, if_pos busy]; exact if_neg other
  | dec => rw [exec, execDec, if_pos busy]; exact if_neg other
  | rdb => rw [exec, execRdb, if_pos busy]; exact if_neg other
  | wrb w => rw [exec, execWrb, if_pos busy]; exact if_neg other
  | sinit => rw [exec, execSinit, if_pos busy]

/-- R90, R214, R222: a step of a command accepts it, finds another one running, or is the next step of the one that
runs. -/
theorem exec_cases {i : Instr} {s t : State} (h : exec i s = .next t) :
    (s.status.busy = false ∧ t = accepted i s) ∨
    (s.status.busy = true ∧ (t = s ∨ (i ≠ .sinit ∧ s.phase = phaseOf i ∧ Runs s t))) := by
  cases hb : s.status.busy with
  | false =>
    rw [exec_of_not_busy hb] at h
    cases h
    exact .inl ⟨rfl, rfl⟩
  | true =>
    refine .inr ⟨rfl, ?_⟩
    by_cases phase : s.phase = phaseOf i
    · cases i with
      | enc =>
        rw [exec, execEnc_running hb phase] at h
        split at h
        next opened => exact .inr ⟨by decide, phase, s, .none, encWrite_move phase opened h⟩
        next closed => exact .inr ⟨by decide, phase, encOpen_runs phase (by simpa using closed) h⟩
      | dec =>
        rw [exec, execDec_running hb phase] at h
        split at h
        next opened => exact .inr ⟨by decide, phase, s, .none, decRead_move phase opened h⟩
        next closed => exact .inr ⟨by decide, phase, decOpen_runs phase (by simpa using closed) h⟩
      | rdb =>
        rw [exec, execRdb_running hb phase] at h
        exact .inr ⟨by decide, phase, s, .none, rdbRun_move phase h⟩
      | wrb w =>
        rw [exec, execWrb_running hb phase w] at h
        exact .inr ⟨by simp, phase, s, .none, wrbRun_move phase h⟩
      | sinit =>
        rw [exec, execSinit, if_pos hb] at h
        cases h
        exact .inl rfl
    · rw [exec_of_other_running hb phase] at h
      cases h
      exact .inl rfl

theorem blockStep_of_no_command {s : State} (hr : runningCommand s = none) : blockStep s = .next s := by
  unfold runningCommand at hr
  split at hr
  next phase => simp [blockStep, phase]
  all_goals cases hr

/-- R180, R222: the block's own move. -/
theorem blockStep_runs {s t : State} (h : blockStep s = .next t) :
    t = s ∨ (s.status.busy = true ∧ Runs s t) := by
  cases hr : runningCommand s with
  | none =>
    rw [blockStep_of_no_command hr] at h
    cases h
    exact .inl rfl
  | some i =>
    cases hb : s.status.busy with
    | false =>
      rw [blockStep_of_idle hb] at h
      cases h
      exact .inl rfl
    | true =>
      rw [blockStep_running hb hr] at h
      rcases exec_cases h with ⟨idle, _⟩ | ⟨_, same | ⟨_, _, runs⟩⟩
      · exact absurd (hb.symm.trans idle) (by decide)
      · exact .inl same
      · exact .inr ⟨rfl, runs⟩

/-! ## A property that every step keeps -/

/-- The property survives each thing that a step can be made of. -/
structure KeptByMoves (P : State → Prop) : Prop where
  inputs : ∀ {s : State} (rest : List Input), P s → P { s with inputs := rest }
  reset : ∀ {s : State} (c : Bool), P s → P (applyReset c s)
  hostRead : ∀ {s : State} (r : RegNo), P s → P (hostRead r s)
  writeRegister : ∀ {s : State} (r : RegNo) (v : Int), P s → P (writeRegister r v s)
  illegal : ∀ {s : State}, s.status.busy = false → P s → P (illegalCommand s)
  accepted : ∀ {s : State} (i : Instr), s.status.busy = false → P s → P (accepted i s)
  setUp : ∀ {s u : State}, s.status.busy = true → P s → SetUp s u → P u
  move : ∀ {s t : State}, s.status.busy = true → P s → Move s t → P t

theorem SetUp.busy {s u : State} (h : SetUp s u) : u.status.busy = s.status.busy := by
  cases h <;> rfl

theorem KeptByMoves.runs {P : State → Prop} (kept : KeptByMoves P) {s t : State} (hb : s.status.busy = true)
    (inv : P s) (h : Runs s t) : P t := by
  obtain ⟨u, setUp, move⟩ := h
  exact kept.move (setUp.busy.trans hb) (kept.setUp hb inv setUp) move

theorem KeptByMoves.exec {P : State → Prop} (kept : KeptByMoves P) {i : Instr} {s t : State} (inv : P s)
    (h : exec i s = .next t) : P t := by
  rcases exec_cases h with ⟨idle, rfl⟩ | ⟨hb, rfl | ⟨_, _, runs⟩⟩
  · exact kept.accepted i idle inv
  · exact inv
  · exact kept.runs hb inv runs

theorem KeptByMoves.hostWrite {P : State → Prop} (kept : KeptByMoves P) {r : RegNo} {v : Int} {s t : State}
    (inv : P s) (h : hostWrite r v s = .next t) : P t := by
  rcases hostWrite_cases h with ⟨_, _, rfl⟩ | ⟨_, _, i, _, h⟩ | ⟨_, idle, _, rfl⟩ | ⟨_, rfl⟩
  · exact inv
  · exact kept.exec inv h
  · exact kept.illegal idle inv
  · exact kept.writeRegister r v inv

/-- The induction over the moves, packaged: such a property is kept by every step. -/
theorem KeptByMoves.step {P : State → Prop} (kept : KeptByMoves P) {s t : State} (inv : P s)
    (h : step s = .next t) : P t := by
  rcases step_cases h with ⟨c, rest, _, rfl⟩ | ⟨r, v, rest, _, h⟩ | ⟨r, rest, _, rfl⟩ | ⟨rest, _, _, rfl⟩ |
    ⟨rest, _, h⟩
  · exact kept.reset c (kept.inputs rest inv)
  · exact kept.hostWrite (kept.inputs rest inv) h
  · exact kept.hostRead r (kept.inputs rest inv)
  · exact kept.inputs rest inv
  · rcases blockStep_runs h with rfl | ⟨hb, runs⟩
    · exact kept.inputs rest inv
    · exact kept.runs hb (kept.inputs rest inv) runs

end Sys2Proof.Machine
end

section
/-!
PROOFS. Four invariants that hold alone, whatever the rest of the state: the legal adapter states (R42, R43), the result
registers (R32, R35 to R37), the register widths (R6, R41), and the parameters, which never change (R6).
-/
namespace Sys2Proof.Machine
open BitVec (twoPow)

/-! ## The adapters (R42, R43) -/

/-- R42: a legal `RMASK` moves right to a legal one. -/
theorem rmask_legal_ushiftRight {m : Byte} (legal : m = 0x00 ∨ ∃ j < 8, m = twoPow 8 j) :
    m >>> 1 = 0x00 ∨ ∃ j < 8, m >>> 1 = twoPow 8 j := by
  rcases legal with rfl | ⟨j, hj, rfl⟩
  · exact .inl (by decide)
  · rw [twoPow_ushiftRight_one hj]
    split
    · exact .inl rfl
    · exact .inr ⟨j - 1, by omega, rfl⟩

/-- The invariant speaks of `RMASK`, `WMASK` and `WACC` alone. -/
theorem AdapterInv.congr {s t : State} (inv : AdapterInv s) (rmask : t.rmask = s.rmask) (wmask : t.wmask = s.wmask)
    (wacc : t.wacc = s.wacc) : AdapterInv t :=
  ⟨rmask ▸ inv.rmask_legal, wmask ▸ wacc ▸ inv.wmask_legal⟩

theorem AdapterInv.bitRead {s u : State} {b : Bool} (inv : AdapterInv s) (read : BitRead s b u) : AdapterInv u := by
  cases read with
  | inHand => exact ⟨rmask_legal_ushiftRight inv.rmask_legal, inv.wmask_legal⟩
  | fetched => exact ⟨.inr ⟨6, by decide, rfl⟩, inv.wmask_legal⟩

theorem AdapterInv.bitWritten {s u : State} {bit : Bool} (inv : AdapterInv s) (written : BitWritten bit s u) :
    AdapterInv u := by
  cases written with
  | stored _ more =>
    obtain ⟨j, hj, mask, clear⟩ := inv.wmask_legal
    have shifted := twoPow_ushiftRight_one hj
    have pos : j ≠ 0 := by
      rintro rfl
      exact more (mask ▸ shifted)
    refine ⟨inv.rmask_legal, j - 1, by omega, ?_, fun i hi => ?_⟩
    · rw [if_neg pos] at shifted
      exact mask ▸ shifted
    · have bitAt := accumulate_getLsbD bit hj mask (clear j le_rfl) i
      rw [if_neg (by omega)] at bitAt
      exact bitAt.trans (clear i (by omega))
  | taken => exact ⟨inv.rmask_legal, inv.wmask_legal⟩

theorem readerInit_adapterInv {s : State} (inv : AdapterInv s) : AdapterInv (readerInit s) :=
  ⟨.inl rfl, inv.wmask_legal⟩

/-- R115: the accumulator is empty and its mask stands at bit 7. -/
theorem writer_reset_legal : ∃ j < 8, (0x80 : Byte) = twoPow 8 j ∧ ∀ i ≤ j, (0x00 : Byte).getLsbD i = false :=
  ⟨7, by decide, by decide, by decide⟩

theorem writerInit_adapterInv {s : State} (inv : AdapterInv s) : AdapterInv (writerInit s) :=
  ⟨inv.rmask_legal, writer_reset_legal⟩

theorem adapterInv_kept : KeptByMoves AdapterInv where
  inputs _ inv := inv.congr rfl rfl rfl
  reset c _ := by
    obtain ⟨_, _, _, _, reset⟩ := applyReset_ports c _
    exact reset ▸ ⟨.inl rfl, writer_reset_legal⟩
  hostRead _ inv := inv.congr rfl rfl rfl
  writeRegister _ _ inv := inv.congr (by simp) (by simp) (by simp)
  illegal _ inv := inv.congr rfl rfl rfl
  accepted i _ inv := by
    cases i with
    | sinit => exact ⟨.inl rfl, writer_reset_legal⟩
    | enc | dec | rdb | wrb => exact inv.congr rfl rfl rfl
  setUp _ inv setUp := by
    cases setUp with
    | none => exact inv
    | dec => exact (readerInit_adapterInv inv).congr rfl rfl rfl
    | enc => exact (writerInit_adapterInv inv).congr rfl rfl rfl
  move _ inv move := by
    cases move with
    | waits => exact inv
    | refuses | asks | fetchFails | sendFails => exact inv.congr rfl rfl rfl
    | sends => exact ⟨inv.rmask_legal, writer_reset_legal⟩
    | decGoesOn _ _ read | decEnds _ _ read | rdbEnds _ read => exact (inv.bitRead read).congr rfl rfl rfl
    | encGoesOn _ _ written | encEnds _ _ written | wrbEnds _ written =>
      exact (inv.bitWritten written).congr rfl rfl rfl

/-- Settles O39: no move of the block or of the host leaves the legal adapter states. -/
theorem adapterStatesStayLegal : Obligations.AdapterStatesStayLegal :=
  fun _ _ inv h => adapterInv_kept.step inv h

/-! ## The result registers (R32, R35 to R37) -/

/-- The invariant speaks of `IN_KIND` and the result registers alone. -/
theorem ResultInv.congr {s t : State} (inv : ResultInv s) (inKind : t.inKind = s.inKind)
    (outKind : t.outKind = s.outKind) (outExp : t.outExp = s.outExp) (outMant : t.outMant = s.outMant) :
    ResultInv t where
  in_reserved := inKind ▸ inv.in_reserved
  out_reserved := outKind ▸ inv.out_reserved
  finite_odd := outKind ▸ outMant ▸ inv.finite_odd
  other_zero := outKind ▸ outExp ▸ outMant ▸ inv.other_zero
  nan_unsigned := outKind ▸ inv.nan_unsigned

/-- R32: what a write of `IN_KIND` keeps has its reserved bits at 0. -/
theorem keepKind_reserved (v : Byte) : keepKind v &&& 0xF8 = 0 := by
  have disjoint : (0x07 : Byte) &&& 0xF8 = 0#8 := by decide
  rw [keepKind, BitVec.and_assoc, disjoint]
  exact BitVec.and_zero

/-- R88: the three fields of a kind word. -/
theorem kindWord_fields : ∀ (g : Bool) (tag : BitVec 2), kindWord g tag &&& 0xF8 = 0 ∧
    kindTag (kindWord g tag) = tag ∧ kindSign (kindWord g tag) = g := by decide

theorem outKindOf_reserved (n : Number) : outKindOf n &&& 0xF8 = 0 := by
  cases n <;> exact (kindWord_fields _ _).1

theorem kindTag_outKindOf_eq_three {n : Number} (h : kindTag (outKindOf n) = 3) : ∃ g e m, n = .finite g e m := by
  cases n with
  | finite g e m => exact ⟨g, e, m, rfl⟩
  | zero | infinity | nan =>
    rw [outKindOf, (kindWord_fields _ _).2.1] at h
    exact absurd h (by decide)

theorem kindTag_outKindOf_eq_two {n : Number} (h : kindTag (outKindOf n) = 2) : n = .nan := by
  cases n with
  | nan => rfl
  | zero | infinity | finite =>
    rw [outKindOf, (kindWord_fields _ _).2.1] at h
    exact absurd h (by decide)

theorem outExpOf_outMantOf_zero {n : Number} (h : kindTag (outKindOf n) ≠ 3) : outExpOf n = 0 ∧ outMantOf n = 0 := by
  cases n with
  | finite g e m => exact absurd (kindWord_fields g 3).2.1 h
  | zero | infinity | nan => exact ⟨rfl, rfl⟩

/-- R170, R172: the result registers of a decoded number hold a result. -/
theorem ResultInv.writeResult {s : State} (inv : ResultInv s) (B : List Bool) (d : Descriptor) :
    ResultInv (writeResult (decodeBits B d) s) where
  in_reserved := inv.in_reserved
  out_reserved := outKindOf_reserved _
  finite_odd tag := by
    obtain ⟨g, e, m, number⟩ := kindTag_outKindOf_eq_three tag
    have odd := (decodedMantissaIsOdd B d g e m number).1
    rwa [writeResult_outMant, number]
  other_zero := outExpOf_outMantOf_zero
  nan_unsigned tag := by
    rw [writeResult_outKind, kindTag_outKindOf_eq_two tag]
    rfl

theorem ResultInv.bitRead {s u : State} {b : Bool} (inv : ResultInv s) (read : BitRead s b u) : ResultInv u := by
  cases read <;> exact inv.congr rfl rfl rfl rfl

theorem ResultInv.bitWritten {s u : State} {bit : Bool} (inv : ResultInv s) (written : BitWritten bit s u) :
    ResultInv u := by
  cases written <;> exact inv.congr rfl rfl rfl rfl

/-- R34: a write of `IN_MANT` changes that register and, perhaps, the count of free values. -/
theorem writeMantissa_eq (v : Int) (s : State) :
    ∃ n draws, writeMantissa v s = { s with inMant := n, draws := draws } := by
  rcases writeMantissa_cases v s with ⟨_, _, written⟩ | ⟨_, _, written⟩ | ⟨_, _, written⟩ <;> exact ⟨_, _, written⟩

theorem ResultInv.writeRegister {s : State} (inv : ResultInv s) (r : RegNo) (v : Int) :
    ResultInv (writeRegister r v s) := by
  rcases writeRegister_cases r v s with ⟨_, eq⟩ | ⟨_, eq⟩ | ⟨_, eq⟩ | ⟨_, eq⟩ | ⟨_, eq⟩ | ⟨_, eq⟩ | ⟨_, eq⟩
  case inr.inr.inr.inl =>
    rw [eq]
    exact ⟨keepKind_reserved _, inv.out_reserved, inv.finite_odd, inv.other_zero, inv.nan_unsigned⟩
  case inr.inr.inr.inr.inr.inl =>
    obtain ⟨n, draws, written⟩ := writeMantissa_eq v s
    rw [eq, written]
    exact inv.congr rfl rfl rfl rfl
  all_goals
    rw [eq]
    exact inv.congr rfl rfl rfl rfl

/-- R32, R35 to R37: the reset values hold a result. -/
theorem resultInv_of_zero {s : State} (inKind : s.inKind = 0) (outKind : s.outKind = 0) (outExp : s.outExp = 0)
    (outMant : s.outMant = 0) : ResultInv s where
  in_reserved := by rw [inKind]; decide
  out_reserved := by rw [outKind]; decide
  finite_odd := by rw [outKind]; exact fun tag => absurd tag (by decide)
  other_zero _ := ⟨outExp, outMant⟩
  nan_unsigned := by rw [outKind]; exact fun tag => absurd tag (by decide)

theorem resultInv_kept : KeptByMoves ResultInv where
  inputs _ inv := inv.congr rfl rfl rfl rfl
  reset c _ := by
    obtain ⟨_, _, _, _, reset⟩ := applyReset_ports c _
    exact reset ▸ resultInv_of_zero rfl rfl rfl rfl
  hostRead _ inv := inv.congr rfl rfl rfl rfl
  writeRegister r v inv := inv.writeRegister r v
  illegal _ inv := inv.congr rfl rfl rfl rfl
  accepted i _ inv := by
    cases i <;> exact inv.congr rfl rfl rfl rfl
  setUp _ inv setUp := by
    cases setUp <;> exact inv.congr rfl rfl rfl rfl
  move _ inv move := by
    cases move with
    | waits => exact inv
    | refuses | asks | fetchFails | sends | sendFails => exact inv.congr rfl rfl rfl rfl
    | decGoesOn _ _ read | rdbEnds _ read => exact (inv.bitRead read).congr rfl rfl rfl rfl
    | decEnds _ _ read => exact ((inv.bitRead read).writeResult _ _).congr rfl rfl rfl rfl
    | encGoesOn _ _ written | encEnds _ _ written | wrbEnds _ written =>
      exact (inv.bitWritten written).congr rfl rfl rfl rfl

/-- Settles O40: `IN_KIND` drops the reserved bits, and only a decoded number reaches the result registers. -/
theorem resultRegistersStayResults : Obligations.ResultRegistersStayResults :=
  fun _ _ inv h => resultInv_kept.step inv h

/-! ## The widths of the registers (R6, R41) -/

/-- The invariant speaks of the parameters, the operands, the results and the latched copies alone. -/
theorem WidthInv.congr {s t : State} (inv : WidthInv s) (params : t.params = s.params)
    (fmtBias : t.fmtBias = s.fmtBias) (inExp : t.inExp = s.inExp) (inMant : t.inMant = s.inMant)
    (outExp : t.outExp = s.outExp) (outMant : t.outMant = s.outMant) (lat : t.lat = s.lat) : WidthInv t where
  fmtBias := params ▸ fmtBias ▸ inv.fmtBias
  inExp := params ▸ inExp ▸ inv.inExp
  inMant := params ▸ inMant ▸ inv.inMant
  outExp := params ▸ outExp ▸ inv.outExp
  outMant := params ▸ outMant ▸ inv.outMant
  latBias := params ▸ lat ▸ inv.latBias
  latExp := params ▸ lat ▸ inv.latExp
  latMant := params ▸ lat ▸ inv.latMant

/-- R41: the value a signed register keeps is one it holds whole. -/
theorem fitsSigned_keepSigned (w : Option Nat) (v : Int) : fitsSigned w (keepSigned w v) = true := by
  cases w <;> simp [fitsSigned, keepSigned]

theorem fitsUnsigned_keepUnsigned (w : Nat) (v : Int) : fitsUnsigned (some w) (keepUnsigned w v) = true := by
  have below := Int.emod_lt_of_pos v (show (0 : Int) < 2 ^ w by positivity)
  have kept := keepUnsigned_eq_emod w v
  rw [fitsUnsigned, decide_eq_true_iff]
  zify
  omega

theorem fitsSigned_zero (w : Option Nat) : fitsSigned w 0 = true := by
  cases w <;> simp [fitsSigned, keepSigned]

theorem fitsUnsigned_zero (w : Option Nat) : fitsUnsigned w 0 = true := by
  cases w <;> simp [fitsUnsigned]

theorem WidthInv.writeMantissa {s : State} (inv : WidthInv s) (v : Int) : WidthInv (writeMantissa v s) := by
  rcases writeMantissa_cases v s with ⟨w, width, eq⟩ | ⟨width, _, eq⟩ | ⟨width, _, eq⟩
  · rw [eq]
    exact { inv with inMant := width ▸ fitsUnsigned_keepUnsigned w v }
  · rw [eq]
    exact { inv with inMant := width ▸ rfl }
  · rw [eq]
    exact { inv with inMant := width ▸ rfl }

theorem WidthInv.writeRegister {s : State} (inv : WidthInv s) (r : RegNo) (v : Int) :
    WidthInv (writeRegister r v s) := by
  rcases writeRegister_cases r v s with ⟨_, eq⟩ | ⟨_, eq⟩ | ⟨_, eq⟩ | ⟨_, eq⟩ | ⟨_, eq⟩ | ⟨_, eq⟩ | ⟨_, eq⟩
  case inr.inr.inl =>
    rw [eq]
    exact { inv with fmtBias := fitsSigned_keepSigned _ v }
  case inr.inr.inr.inr.inl =>
    rw [eq]
    exact { inv with inExp := fitsSigned_keepSigned _ v }
  case inr.inr.inr.inr.inr.inl =>
    rw [eq]
    exact inv.writeMantissa v
  all_goals
    rw [eq]
    exact inv.congr rfl rfl rfl rfl rfl rfl rfl

theorem WidthInv.bitRead {s u : State} {b : Bool} (inv : WidthInv s) (read : BitRead s b u) : WidthInv u := by
  cases read <;> exact inv.congr rfl rfl rfl rfl rfl rfl rfl

theorem WidthInv.bitWritten {s u : State} {bit : Bool} (inv : WidthInv s) (written : BitWritten bit s u) :
    WidthInv u := by
  cases written <;> exact inv.congr rfl rfl rfl rfl rfl rfl rfl

/-- R170: a result that fits is written whole. -/
theorem WidthInv.writeResult {s : State} (inv : WidthInv s) {n : Number} (fits : resultFits s.params n = true) :
    WidthInv (writeResult n s) := by
  obtain ⟨exponent, mantissa⟩ := (Bool.and_eq_true _ _).mp fits
  exact { inv with outExp := exponent, outMant := mantissa }

/-- R210: the reset values fit every width. -/
theorem resetBlock_widthInv (s : State) : WidthInv (resetBlock s) where
  fmtBias := fitsSigned_zero _
  inExp := fitsSigned_zero _
  inMant := fitsUnsigned_zero _
  outExp := fitsSigned_zero _
  outMant := fitsUnsigned_zero _
  latBias := fitsSigned_zero _
  latExp := fitsSigned_zero _
  latMant := fitsUnsigned_zero _

theorem widthInv_kept : KeptByMoves WidthInv where
  inputs _ inv := inv.congr rfl rfl rfl rfl rfl rfl rfl
  reset c _ := by
    obtain ⟨_, _, _, _, reset⟩ := applyReset_ports c _
    exact reset ▸ (resetBlock_widthInv _).congr rfl rfl rfl rfl rfl rfl rfl
  hostRead _ inv := inv.congr rfl rfl rfl rfl rfl rfl rfl
  writeRegister r v inv := inv.writeRegister r v
  illegal _ inv := inv.congr rfl rfl rfl rfl rfl rfl rfl
  accepted i _ inv := by
    cases i <;>
      exact ⟨inv.fmtBias, inv.inExp, inv.inMant, inv.outExp, inv.outMant, inv.fmtBias, inv.inExp, inv.inMant⟩
  setUp _ inv setUp := by
    cases setUp <;> exact inv.congr rfl rfl rfl rfl rfl rfl rfl
  move _ inv move := by
    cases move with
    | waits => exact inv
    | refuses | asks | fetchFails | sends | sendFails => exact inv.congr rfl rfl rfl rfl rfl rfl rfl
    | decGoesOn _ _ read | rdbEnds _ read => exact (inv.bitRead read).congr rfl rfl rfl rfl rfl rfl rfl
    | decEnds _ _ read _ fits =>
      have written := ((inv.bitRead read).writeResult fits)
      exact written.congr rfl rfl rfl rfl rfl rfl rfl
    | encGoesOn _ _ written | encEnds _ _ written | wrbEnds _ written =>
      exact (inv.bitWritten written).congr rfl rfl rfl rfl rfl rfl rfl

/-- Settles O41: the host's writes keep low bits, acceptance copies what fits, and a result is written only if it
fits. -/
theorem registersKeepTheirWidths : Obligations.RegistersKeepTheirWidths :=
  fun _ _ inv h => widthInv_kept.step inv h

/-! ## The parameters (R6) -/

theorem params_kept (p : Params) : KeptByMoves (fun s => s.params = p) where
  inputs _ h := h
  reset c h := by
    obtain ⟨_, _, _, _, reset⟩ := applyReset_ports c _
    exact reset ▸ h
  hostRead _ h := h
  writeRegister r v h := (writeRegister_params r v _).trans h
  illegal _ h := h
  accepted i _ h := by cases i <;> exact h
  setUp _ h setUp := by cases setUp <;> exact h
  move _ h move := by
    cases move with
    | decGoesOn _ _ read | decEnds _ _ read | rdbEnds _ read => cases read <;> exact h
    | encGoesOn _ _ written | encEnds _ _ written | wrbEnds _ written => cases written <;> exact h
    | waits | refuses | asks | fetchFails | sends | sendFails => exact h

/-- Settles O59: the parameters' present value is kept by every step. -/
theorem parametersAreFixed : Obligations.ParametersAreFixed :=
  fun s _ h => (params_kept s.params).step rfl h

end Sys2Proof.Machine
end

section
/-!
PROOFS. Bits and bytes (R63, R64): the bits of a packed byte, the bits of a sequence of bytes, and how both grow by one
bit. The popcount of an all-ones field (R10) and the placement of an encoding's bits are read off them.
-/
namespace Sys2Proof.Machine
open BitVec (twoPow)

/-! ## The byte of a bit sequence -/

/-- The bits of a packed byte, MSB-first: the first eight of the sequence, 0 where it has none. -/
theorem bitsE_byteOfBits (bs : List Bool) : bitsE (byteOfBits bs).toNat 8 = (bs ++ copies false 8).take 8 := by
  have length : ((bs ++ copies false 8).take 8).length = 8 := by simp
  have fits := ofBits_lt ((bs ++ copies false 8).take 8)
  have read := bitsE_ofBits ((bs ++ copies false 8).take 8)
  rw [length] at fits read
  rw [byteOfBits, BitVec.toNat_ofNat, Nat.mod_eq_of_lt fits, read]

theorem byteOfBits_getLsbD (bs : List Bool) {i : Nat} (hi : i < 8) :
    (byteOfBits bs).getLsbD (7 - i) = bs.getD i false := by
  have get := bitsE_get (byteOfBits bs).toNat hi
  rw [bitsE_byteOfBits, List.getElem?_take_of_lt hi] at get
  have padded : bs.getD i false = ((bs ++ copies false 8)[i]?).getD false := by
    rw [List.getD_eq_getElem?_getD, List.getElem?_append]
    split
    · rfl
    next none =>
      rw [List.getElem?_eq_none (not_lt.mp none), copies, List.getElem?_replicate]
      split <;> rfl
  rw [padded, get]
  rfl

/-- The first eight bits of a sequence decide its byte. -/
theorem byteOfBits_congr {bs cs : List Bool} (h : ∀ i < 8, bs.getD i false = cs.getD i false) :
    byteOfBits bs = byteOfBits cs := by
  refine BitVec.eq_of_getLsbD_eq fun j hj => ?_
  have index : j = 7 - (7 - j) := by omega
  rw [index, byteOfBits_getLsbD bs (by omega), byteOfBits_getLsbD cs (by omega), h _ (by omega)]

theorem byteOfBits_take_eight (bs : List Bool) : byteOfBits (bs.take 8) = byteOfBits bs :=
  byteOfBits_congr fun i hi => by
    rw [List.getD_eq_getElem?_getD, List.getD_eq_getElem?_getD, List.getElem?_take_of_lt hi]

/-- The mask after `k` bits of a byte stands at bit `7 - k`. -/
theorem mask_eq_twoPow : ∀ k < 8, (0x80 : Byte) >>> k = twoPow 8 (7 - k) := by decide

theorem mask_ushiftRight_one (k : Nat) : (0x80 : Byte) >>> k >>> 1 = (0x80 : Byte) >>> (k + 1) :=
  (BitVec.shiftRight_add _ k 1).symm

/-- R113: a bit that goes to `WMASK` extends the bits that stand in `WACC`. -/
theorem accumulate_byteOfBits {s : State} {bs : List Bool} (bit : Bool) (room : bs.length < 8)
    (mask : s.wmask = (0x80 : Byte) >>> bs.length) (bits : s.wacc = byteOfBits bs) :
    accumulate bit s = byteOfBits (bs ++ [bit]) := by
  have stands : s.wmask = twoPow 8 (7 - bs.length) := mask.trans (mask_eq_twoPow _ room)
  have clear : s.wacc.getLsbD (7 - bs.length) = false := by
    rw [bits, byteOfBits_getLsbD bs room]
    simp
  refine BitVec.eq_of_getLsbD_eq fun j hj => ?_
  have index : j = 7 - (7 - j) := by omega
  rw [accumulate_getLsbD bit (by omega) stands clear, bits, index, byteOfBits_getLsbD bs (by omega),
    byteOfBits_getLsbD (bs ++ [bit]) (by omega), List.getD_eq_getElem?_getD, List.getD_eq_getElem?_getD,
    List.getElem?_append]
  split
  next last =>
    have here : 7 - j = bs.length := by omega
    simp [here]
  next other =>
    split
    · rfl
    next beyond =>
      have past : bs.length < 7 - j := by omega
      simp [List.getElem?_eq_none past.le, show 7 - j - bs.length ≠ 0 by omega]

/-! ## The bytes of a bit sequence (R64) -/

@[simp] theorem packBytes_zero (bits : List Bool) : packBytes 0 bits = [] := rfl

theorem packBytes_succ (count : Nat) (bits : List Bool) :
    packBytes (count + 1) bits = packBytes count bits ++ [byteOfBits (bits.drop (8 * count))] := by
  simp [packBytes, List.range_succ]

theorem packBytes_getElem? {count j : Nat} (hj : j < count) (bits : List Bool) :
    (packBytes count bits)[j]? = some (byteOfBits (bits.drop (8 * j))) := by
  simp [packBytes, hj]

theorem packBytes_length (count : Nat) (bits : List Bool) : (packBytes count bits).length = count := by
  simp [packBytes]

/-! ## The bits of bytes -/

@[simp] theorem bitsOfBytes_nil : bitsOfBytes [] = [] := rfl

@[simp] theorem bitsOfBytes_cons (b : Byte) (bytes : List Byte) :
    bitsOfBytes (b :: bytes) = bitsE b.toNat 8 ++ bitsOfBytes bytes := rfl

@[simp] theorem bitsOfBytes_append (xs ys : List Byte) : bitsOfBytes (xs ++ ys) = bitsOfBytes xs ++ bitsOfBytes ys :=
  List.flatMap_append

@[simp] theorem bitsOfBytes_length (bytes : List Byte) : (bitsOfBytes bytes).length = 8 * bytes.length := by
  induction bytes with
  | nil => rfl
  | cons b bytes ih => simp [ih]; omega

/-- R64: bit `i` of a sequence of bytes is bit `7 - i mod 8` of byte `i / 8`. -/
theorem bitsOfBytes_getElem? (bytes : List Byte) (i : Nat) :
    (bitsOfBytes bytes)[i]? = bytes[i / 8]?.map (·.getLsbD (7 - i % 8)) := by
  induction bytes generalizing i with
  | nil => simp
  | cons b bytes ih =>
    rw [bitsOfBytes_cons]
    by_cases first : i < 8
    · rw [List.getElem?_append_left (by simpa using first), bitsE_get _ first, Nat.div_eq_of_lt first,
        Nat.mod_eq_of_lt first]
      rfl
    · obtain ⟨k, rfl⟩ := Nat.exists_eq_add_of_le' (not_lt.mp first)
      rw [List.getElem?_append_right (by simp), bitsE_length, Nat.add_sub_cancel, ih, Nat.add_mod_right,
        Nat.add_div_right k (by decide), List.getElem?_cons_succ]

/-- The next bit of a sequence of bytes. -/
theorem take_succ_bitsOfBytes {bytes : List Byte} {k : Nat} {b : Byte} (byte : bytes[k / 8]? = some b) :
    (bitsOfBytes bytes).take (k + 1) = (bitsOfBytes bytes).take k ++ [b.getLsbD (7 - k % 8)] := by
  rw [List.take_add_one, bitsOfBytes_getElem?, byte]
  rfl

/-- R64: unpacking whole bytes gives the sequence back. -/
theorem bitsOfBytes_packBytes {count : Nat} {B : List Bool} (whole : B.length = 8 * count) :
    bitsOfBytes (packBytes count B) = B := by
  refine List.ext_getElem? fun i => ?_
  rw [bitsOfBytes_getElem?]
  by_cases hi : i < B.length
  · have inByte : i % 8 < 8 := Nat.mod_lt _ (by decide)
    rw [packBytes_getElem? (by omega), Option.map_some, byteOfBits_getLsbD _ inByte, List.getD_eq_getElem?_getD,
      List.getElem?_drop, Nat.div_add_mod, List.getElem?_eq_getElem hi]
    rfl
  · rw [List.getElem?_eq_none (by rw [packBytes_length]; omega), List.getElem?_eq_none (not_lt.mp hi)]
    rfl

/-- Settles O25: the byte is packed from the eight bits that begin at `8 * (i / 8)`. -/
theorem encodingBitPlacement : Obligations.EncodingBitPlacement := by
  intro B count i whole hi
  have byte := packBytes_getElem? (show i / 8 < count by omega) B
  have unpacked := bitsOfBytes_packBytes whole
  refine ⟨_, byte, ?_, by rw [unpacked]⟩
  have get := bitsOfBytes_getElem? (packBytes count B) i
  rwa [unpacked, byte] at get

/-- Settles O27: a field of `E` bits holds at most `E` set ones, and all of them only when it is all ones. -/
theorem popcountMeetsAllOnes : Obligations.PopcountMeetsAllOnes := by
  intro E f hf
  have most : (bitsE f E).count true ≤ (bitsE f E).length := List.count_le_length
  rw [bitsE_length, ← popcount_eq_count_bitsE hf] at most
  exact ⟨most, popcount_eq_iff hf⟩

end Sys2Proof.Machine
end

section
/-!
PROOFS. Decode and re-encode (R174). A finite number's mantissa and exponent give the significand and the exponent field
back, since its bit length places it in the range it was decoded from.
-/
namespace Sys2Proof.Machine

/-- R166 to R169, R137: the biased exponent of a decoded number, by the bit length of the significand behind it. -/
theorem biasedExponent_of_significand {e : Int} {m t k : Nat} {d : Descriptor} {g : Int} (hm : 0 < m)
    (significand : m * 2 ^ t = k) (exponent : e = t + g - d.m - d.bias) :
    biasedExponent e m d = g - d.m + bitLength k - 1 := by
  have length := bitLength_mul_two_pow hm t
  rw [significand] at length
  rw [biasedExponent, significandLength, exponent, length]
  push_cast
  ring

/-- The significand is the whole part of the number in steps of its own grid. -/
theorem truncated_of_significand {e : Int} {m t k : Nat} {d : Descriptor} {g : Int} (significand : m * 2 ^ t = k)
    (exponent : e = t + g - d.m - d.bias) : truncated e m d g = k := by
  have shift : e - (g - d.bias - d.m) = t := by omega
  have whole : (m : ℚ) * 2 ^ (t : Int) = (k : ℚ) := by rw [← significand]; push_cast; rfl
  rw [truncated, gridStep, mul_div_assoc, ← zpow_sub₀ two_ne_zero, shift, whole, Nat.floor_natCast]

/-- A significand with its hidden bit has `M + 1` bits. -/
theorem bitLength_normal {mf M : Nat} (hmf : mf < 2 ^ M) : bitLength (mf + 2 ^ M) = M + 1 := by
  have low := bitLength_le_of_lt (show mf + 2 ^ M < 2 ^ (M + 1) by rw [pow_succ]; omega)
  have high : ¬ bitLength (mf + 2 ^ M) ≤ M := fun short => by
    have below := (lt_two_pow_bitLength (mf + 2 ^ M)).trans_le (Nat.pow_le_pow_right (by decide) short)
    omega
  omega

/-- R137, R166, R167: the encoder places a decoded number where it was: at the same exponent field and on the same
grid. -/
theorem biasedExponent_decoded {e : Int} {m t f mf : Nat} {d : Descriptor} (hm : 0 < m) (hmf : mf < 2 ^ d.m)
    (significand : m * 2 ^ t = fieldSignificand f mf d) (exponent : e = t + max (f : Int) 1 - d.m - d.bias) :
    max (biasedExponent e m d) 0 = f ∧ max (biasedExponent e m d) 1 = max (f : Int) 1 := by
  have biased := biasedExponent_of_significand hm significand exponent
  rw [fieldSignificand] at biased
  split at biased
  · have short := bitLength_le_of_lt hmf
    omega
  · rw [bitLength_normal hmf] at biased
    omega

/-- R174: a finite number encodes as the sequence it was decoded from. -/
theorem encodeBits_decoded_finite {B : List Bool} {d : Descriptor} {s : Bool} {e : Int} {m : Nat} (he : 1 ≤ d.e)
    (hB : B.length = d.n) (h : decodeBits B d = .finite s e m) : encodeBits (.finite s e m) d = some B := by
  obtain ⟨sign, below, odd, t, significand, exponent⟩ := decodeBits_eq_finite h
  have hm : 1 ≤ m := by omega
  obtain ⟨field, grid⟩ := biasedExponent_decoded hm (mantissaField_lt B d) significand exponent
  have finite : biasedExponent e m d < allOnes d.e := by omega
  obtain ⟨B', encoded⟩ := exists_encoding finite s
  obtain ⟨sign', exponent', -, significand'⟩ := encodeBits_fields he hm encoded
  have sameExponent : exponentField B' d = exponentField B d := by omega
  rw [grid, truncated_of_significand significand exponent, sameExponent] at significand'
  have same := eq_of_fields_eq (encodeBits_length encoded) hB (sign'.trans sign) sameExponent
    (fieldSignificand_inj significand')
  exact same ▸ encoded

/-! ## The numbers that are not finite -/

/-- R134, R135: with its mantissa field 0, a sequence is assembled from its sign and its exponent field. -/
theorem eq_assemble_of_mantissaField_zero {B x : List Bool} {d : Descriptor} (hB : B.length = d.n) (hx : x.length = d.e)
    (exponent : exponentField B d = ofBits x) (mantissa : mantissaField B d = 0) :
    assemble (signOf B) x (copies false d.m) = B := by
  refine eq_of_fields_eq (by simp [hx, Descriptor.n]) hB rfl ?_ ?_
  · rw [exponentField_assemble _ _ hx, exponent]
  · rw [mantissaField_assemble _ hx (copies_length _ _), ofBits_copies_false, mantissa]

theorem encodeBits_decoded_zero {B : List Bool} {d : Descriptor} (hB : B.length = d.n)
    (exponent : exponentField B d = 0) (mantissa : mantissaField B d = 0) :
    encodeBits (.zero (signOf B)) d = some B :=
  congrArg some (eq_assemble_of_mantissaField_zero hB (copies_length false d.e)
    (exponent.trans (ofBits_copies_false _).symm) mantissa)

theorem encodeBits_decoded_infinity {B : List Bool} {d : Descriptor} (hB : B.length = d.n)
    (exponent : exponentField B d = allOnes d.e) (mantissa : mantissaField B d = 0) :
    encodeBits (.infinity (signOf B)) d = some B :=
  congrArg some (eq_assemble_of_mantissaField_zero hB (copies_length true d.e)
    (exponent.trans (ofBits_copies_true _).symm) mantissa)

/-- R164: only a sequence with a mantissa field decodes to NaN. -/
theorem one_le_mantissa_width {B : List Bool} {d : Descriptor} (mantissa : mantissaField B d ≠ 0) : 1 ≤ d.m := by
  have below := mantissaField_lt B d
  by_contra! none
  obtain none : d.m = 0 := by omega
  rw [none, pow_zero] at below
  omega

/-- Settles O31, by the class of the sequence: each class is re-encoded from its own fields. -/
theorem decodeThenEncodeIsIdentity : Obligations.DecodeThenEncodeIsIdentity := by
  intro B d he hB
  obtain ⟨nan, infinity, zero, subnormal, normal, -⟩ := decodedClassAndValue B d _ _ hB rfl rfl
  have fits := exponentField_lt B d
  have identity {s e m} (h : decodeBits B d = .finite s e m) := encodeBits_decoded_finite he hB h
  by_cases ones : exponentField B d = 2 ^ d.e - 1
  · by_cases mantissa : mantissaField B d = 0
    · rw [infinity ones mantissa]
      exact ⟨fun _ => encodeBits_decoded_infinity hB ones mantissa, fun isNan => nomatch isNan⟩
    · rw [nan ones mantissa]
      exact ⟨fun notNan => absurd rfl notNan,
        fun _ => ⟨_, rfl, ofBits_canonicalNan (one_le_mantissa_width mantissa)⟩⟩
  · by_cases exponent : exponentField B d = 0
    · by_cases mantissa : mantissaField B d = 0
      · rw [zero exponent he mantissa]
        exact ⟨fun _ => encodeBits_decoded_zero hB exponent mantissa, fun isNan => nomatch isNan⟩
      · obtain ⟨e, m, number, -⟩ := subnormal exponent he mantissa
        rw [number]
        exact ⟨fun _ => identity number, fun isNan => nomatch isNan⟩
    · obtain ⟨e, m, number, -⟩ := normal (by omega) (by omega)
      rw [number]
      exact ⟨fun _ => identity number, fun isNan => nomatch isNan⟩

end Sys2Proof.Machine
end

section
/-!
PROOFS. The invariant of the whole machine (R42 to R49): the sequencer's fields agree (by themselves, under every move),
and a bit written or read advances what a running `ENC` or `DEC` has done.
-/
namespace Sys2Proof.Machine
open BitVec (twoPow)

/-! ## The sequencer (R24 to R26, R44, R49) -/

/-- What the invariants of a running command speak of is as it was. -/
structure RunKept (s t : State) : Prop where
  params : t.params = s.params
  status : t.status = s.status
  phase  : t.phase = s.phase
  opened : t.opened = s.opened
  pend   : t.pend = s.pend
  lat    : t.lat = s.lat
  k      : t.k = s.k
  buf    : t.buf = s.buf
  rcur   : t.rcur = s.rcur
  rmask  : t.rmask = s.rmask
  wacc   : t.wacc = s.wacc
  wmask  : t.wmask = s.wmask
  drawn  : t.drawn = s.drawn
  sunk   : t.sunk = s.sunk

theorem runKept_inputs (rest : List Input) (s : State) : RunKept s { s with inputs := rest } := by
  constructor <;> rfl

theorem runKept_hostRead (r : RegNo) (s : State) : RunKept s (hostRead r s) := by
  constructor <;> rfl

theorem runKept_writeRegister (r : RegNo) (v : Int) (s : State) : RunKept s (writeRegister r v s) := by
  constructor <;> simp

theorem ControlInv.congr {s t : State} (inv : ControlInv s) (kept : RunKept s t) : ControlInv t where
  idle_iff_not_busy := kept.phase ▸ kept.status ▸ inv.idle_iff_not_busy
  busy_clears := kept.status ▸ inv.busy_clears
  err_ne_seven := kept.status ▸ inv.err_ne_seven
  opened_phase := kept.opened ▸ kept.phase ▸ inv.opened_phase
  pend_src := kept.pend ▸ kept.opened ▸ kept.phase ▸ kept.rmask ▸ inv.pend_src
  pend_snk := kept.pend ▸ kept.opened ▸ kept.phase ▸ kept.wacc ▸ kept.wmask ▸ inv.pend_snk

/-- R49, R69: an idle block has asked for nothing. -/
theorem ControlInv.pend_none_of_idle {s : State} (inv : ControlInv s) (idle : s.status.busy = false) :
    s.pend = .none := by
  have phase := inv.idle_iff_not_busy.mpr idle
  cases hp : s.pend with
  | none => rfl
  | src => simpa [phase] using (inv.pend_src hp).1
  | snk b => simpa [phase] using (inv.pend_snk b hp).1

/-- R180: the fields agree where a command ends with nothing pending. -/
theorem endCommand_controlInv {code : BitVec 3} {u : State} (hc : code ≠ 7) (quiet : u.pend = .none) :
    ControlInv (endCommand code u) where
  idle_iff_not_busy := iff_of_true rfl rfl
  busy_clears busy := nomatch busy
  err_ne_seven := hc
  opened_phase opened := nomatch opened
  pend_src asked := nomatch quiet.symm.trans asked
  pend_snk _ sent := nomatch quiet.symm.trans sent

theorem complete_controlInv {u : State} (quiet : u.pend = .none) : ControlInv (complete u) :=
  endCommand_controlInv (by decide) quiet

theorem errorCode_ne_seven (e : ErrorKind) : errorCode e ≠ 7 := by cases e <;> decide

theorem raise_controlInv (e : ErrorKind) {u : State} (quiet : u.pend = .none) : ControlInv (raise e u) :=
  endCommand_controlInv (errorCode_ne_seven e) quiet

/-- The fields agree while a command goes on with nothing pending. -/
theorem ControlInv.goesOn {s t : State} (inv : ControlInv s) (phase : t.phase = s.phase)
    (busy : t.status.busy = s.status.busy) (done : t.status.done = s.status.done) (err : t.status.err = s.status.err)
    (opened : t.opened = true → t.phase = .enc ∨ t.phase = .dec) (quiet : t.pend = .none) : ControlInv t where
  idle_iff_not_busy := phase ▸ busy ▸ inv.idle_iff_not_busy
  busy_clears := busy ▸ done ▸ err ▸ inv.busy_clears
  err_ne_seven := err ▸ inv.err_ne_seven
  opened_phase := opened
  pend_src asked := nomatch quiet.symm.trans asked
  pend_snk _ sent := nomatch quiet.symm.trans sent

theorem BitRead.quiet {s u : State} {b : Bool} (read : BitRead s b u) : u.pend = .none := by
  cases read with
  | inHand quiet => exact quiet
  | fetched => rfl

theorem BitWritten.quiet {s u : State} {bit : Bool} (written : BitWritten bit s u) : u.pend = .none := by
  cases written with
  | stored quiet => exact quiet
  | taken => rfl

theorem ControlInv.accepted {s : State} (inv : ControlInv s) (idle : s.status.busy = false) (i : Instr) :
    ControlInv (accepted i s) := by
  have quiet := inv.pend_none_of_idle idle
  have starts {ph : Phase} (hph : ph ≠ .idle) (w : Bool) : ControlInv (accept ph w s) :=
    { idle_iff_not_busy := iff_of_false hph (by simp)
      busy_clears := fun _ => ⟨rfl, rfl⟩
      err_ne_seven := by simp
      opened_phase := fun opened => nomatch opened
      pend_src := fun asked => nomatch quiet.symm.trans asked
      pend_snk := fun _ sent => nomatch quiet.symm.trans sent }
  cases i with
  | sinit => exact complete_controlInv quiet
  | enc | dec | rdb | wrb => exact starts (by decide) _

theorem ControlInv.setUp {s u : State} (inv : ControlInv s) (setUp : SetUp s u) : ControlInv u := by
  cases setUp with
  | none => exact inv
  | dec phase closed =>
    exact inv.goesOn rfl rfl rfl rfl (fun _ => .inr phase) (inv.pend_none_of_not_opened (.inr phase) closed)
  | enc bits phase closed =>
    exact inv.goesOn rfl rfl rfl rfl (fun _ => .inl phase) (inv.pend_none_of_not_opened (.inl phase) closed)

theorem ControlInv.move {s t : State} (inv : ControlInv s) (move : Move s t) : ControlInv t := by
  cases move with
  | waits => exact inv
  | refuses e cause =>
    exact raise_controlInv e (cause.elim And.left fun ⟨closed, phase⟩ => inv.pend_none_of_not_opened phase closed)
  | asks reading _ empty =>
    exact { inv with pend_src := fun _ => ⟨reading, empty⟩, pend_snk := fun _ sent => (nomatch sent) }
  | fetchFails | sendFails => exact raise_controlInv _ rfl
  | sends bit writing =>
    exact { inv with pend_src := fun asked => (nomatch asked), pend_snk := fun _ _ => ⟨writing, rfl, rfl⟩ }
  | decGoesOn phase _ read =>
    have quiet := read.quiet
    cases read <;> exact inv.goesOn rfl rfl rfl rfl (fun _ => .inr phase) quiet
  | encGoesOn phase _ written =>
    have quiet := written.quiet
    cases written <;> exact inv.goesOn rfl rfl rfl rfl (fun _ => .inl phase) quiet
  | decEnds _ _ read | rdbEnds _ read => exact complete_controlInv read.quiet
  | encEnds _ _ written | wrbEnds _ written => exact complete_controlInv written.quiet

theorem resetBlock_controlInv (s : State) : ControlInv (resetBlock s) where
  idle_iff_not_busy := iff_of_true rfl rfl
  busy_clears busy := nomatch busy
  err_ne_seven := (by decide : (0 : BitVec 3) ≠ 7)
  opened_phase opened := nomatch opened
  pend_src asked := nomatch asked
  pend_snk _ sent := nomatch sent

theorem controlInv_kept : KeptByMoves ControlInv where
  inputs rest inv := inv.withInputs rest
  reset {s} c _ := by
    obtain ⟨_, _, _, _, reset⟩ := applyReset_ports c s
    rw [reset]
    exact { resetBlock_controlInv s with }
  hostRead r inv := inv.congr (runKept_hostRead r _)
  writeRegister r v inv := inv.congr (runKept_writeRegister r v _)
  illegal idle inv := { inv with
    busy_clears := fun busy => absurd (idle.symm.trans busy) (by decide)
    err_ne_seven := errorCode_ne_seven .illegalCommand }
  accepted i idle inv := inv.accepted idle i
  setUp _ inv setUp := inv.setUp setUp
  move _ inv move := inv.move move

theorem byteOfBits_nil : byteOfBits [] = 0x00 := by decide

/-! ## What a running `ENC` has sent (R46, R143) -/

/-- `k` bits of the encoding are written: the whole bytes among them are the last bytes the sink has taken, the rest
stand in the accumulator, and nothing is pending. -/
structure SentUpTo (bits : List Bool) (k : Nat) (u : State) : Prop where
  quiet : u.pend = .none
  sent  : ∃ before, u.sunk = before ++ packBytes (k / 8) bits
  mask  : u.wmask = (0x80 : Byte) >>> (k % 8)
  part  : u.wacc = byteOfBits ((bits.take k).drop (8 * (k / 8)))

/-- The mask leaves the byte from its last bit alone. -/
theorem mask_leaves_iff : ∀ r < (8 : Nat), (0x80 : Byte) >>> r >>> 1 = 0x00 ↔ r = 7 := by decide

/-- The bits of the byte being filled, one more of them. -/
theorem drop_take_succ {bits : List Bool} {k : Nat} (hk : k < bits.length) :
    (bits.take (k + 1)).drop (8 * (k / 8)) = (bits.take k).drop (8 * (k / 8)) ++ [bits.getD k false] := by
  have start : 8 * (k / 8) ≤ (bits.take k).length := by
    rw [List.length_take]
    omega
  rw [List.take_add_one, List.drop_append_of_le_length start, List.getD_eq_getElem?_getD, List.getElem?_eq_getElem hk]
  rfl

theorem drop_take_length {bits : List Bool} {k : Nat} (hk : k < bits.length) :
    ((bits.take k).drop (8 * (k / 8))).length = k % 8 := by
  rw [List.length_drop, List.length_take]
  omega

/-- R113, R143: the accumulator after bit `k` holds the bits of its byte up to that one. -/
theorem accumulate_next {s : State} {bits : List Bool} {k : Nat} (done : SentUpTo bits k s) (hk : k < bits.length) :
    accumulate (bits.getD k false) s = byteOfBits ((bits.take (k + 1)).drop (8 * (k / 8))) := by
  have length := drop_take_length hk
  have room : k % 8 < 8 := Nat.mod_lt _ (by decide)
  rw [drop_take_succ hk]
  exact accumulate_byteOfBits _ (length ▸ room) (length.symm ▸ done.mask) done.part

/-- R143: the byte that bit `k` completes is the one that begins at bit `8 * (k / 8)`. -/
theorem byteOfBits_complete {bits : List Bool} {k : Nat} (last : k % 8 = 7) :
    byteOfBits ((bits.take (k + 1)).drop (8 * (k / 8))) = byteOfBits (bits.drop (8 * (k / 8))) := by
  have eight : k + 1 - 8 * (k / 8) = 8 := by omega
  rw [List.drop_take, eight, byteOfBits_take_eight]

/-- R113: a stored bit is one more bit written. -/
theorem SentUpTo.stored {s : State} {bits : List Bool} {k : Nat} (done : SentUpTo bits k s) (hk : k < bits.length)
    (more : s.wmask >>> 1 ≠ 0x00) :
    SentUpTo bits (k + 1) { s with wacc := accumulate (bits.getD k false) s, wmask := s.wmask >>> 1 } := by
  have room : k % 8 < 8 := Nat.mod_lt _ (by decide)
  rw [done.mask, ne_eq, mask_leaves_iff _ room] at more
  have sameByte : (k + 1) / 8 = k / 8 := by omega
  have nextBit : (k + 1) % 8 = k % 8 + 1 := by omega
  exact
    { quiet := done.quiet
      sent := sameByte.symm ▸ done.sent
      mask := by rw [nextBit, ← mask_ushiftRight_one, done.mask]
      part := by rw [sameByte]; exact accumulate_next done hk }

/-- R113, R143: a byte taken is one more bit written, the last of its byte. -/
theorem SentUpTo.of_taken {s : State} {bits : List Bool} {k : Nat} {rest : List SnkAnswer} (last : k % 8 = 7)
    (sent : ∃ before, s.sunk = before ++ packBytes (k / 8) bits) (wacc : s.wacc = 0x00) (wmask : s.wmask = 0x80) :
    SentUpTo bits (k + 1) (sinkAnswered (byteOfBits (bits.drop (8 * (k / 8)))) rest s) := by
  obtain ⟨before, sunk⟩ := sent
  have nextByte : (k + 1) / 8 = k / 8 + 1 := by omega
  have boundary : (k + 1) % 8 = 0 := by omega
  have noBit : (bits.take (k + 1)).drop (8 * ((k + 1) / 8)) = [] := by
    rw [List.drop_eq_nil_iff, List.length_take]
    omega
  exact
    { quiet := rfl
      sent := ⟨before, by rw [nextByte, packBytes_succ, ← List.append_assoc, ← sunk]; rfl⟩
      mask := by rw [boundary]; exact wmask
      part := by rw [noBit]; exact wacc.trans byteOfBits_nil.symm }

theorem EncodingInv.sentUpTo {s : State} (inv : EncodingInv s) (quiet : s.pend = .none) : SentUpTo s.buf s.k s :=
  have ⟨mask, part⟩ := inv.partBit quiet
  ⟨quiet, inv.sent, mask, part⟩

theorem EncodingInv.k_lt {s : State} (inv : EncodingInv s) : s.k < s.buf.length := inv.length ▸ inv.progress

/-- R46, R143: bit `K` written, `K + 1` bits are. -/
theorem EncodingInv.bitWritten {s u : State} (inv : EncodingInv s) (control : ControlInv s)
    (written : BitWritten (s.buf.getD s.k false) s u) : SentUpTo s.buf (s.k + 1) u := by
  cases written with
  | stored quiet more => exact (inv.sentUpTo quiet).stored inv.k_lt more
  | taken out rest sent =>
    obtain ⟨last, rfl⟩ := inv.wholeByte out sent
    obtain ⟨-, wacc, wmask⟩ := control.pend_snk _ sent
    exact .of_taken last inv.sent wacc wmask

/-! ## What a running `DEC` has read (R46, R162) -/

/-- `k` bits are read: they are the first bits of the last bytes the source has given up, the mask stands at the next
bit of the last one, and nothing is pending. -/
structure ReadUpTo (bits : List Bool) (k : Nat) (u : State) : Prop where
  quiet   : u.pend = .none
  fetched : ∃ before bytes, u.drawn = before ++ bytes ∧ bytes.length = (k + 7) / 8 ∧
    bits = (bitsOfBytes bytes).take k ∧ (k % 8 ≠ 0 → bytes.getLast? = some u.rcur)
  mask    : u.rmask = if k % 8 = 0 then 0x00 else (0x80 : Byte) >>> (k % 8)

/-- R110: the mask after the bit it stands at. -/
theorem read_mask_next : ∀ r < (8 : Nat), r ≠ 0 →
    (0x80 : Byte) >>> r >>> 1 = if (r + 1) % 8 = 0 then 0x00 else (0x80 : Byte) >>> ((r + 1) % 8) := by decide

/-- R110, R162: a bit of the byte in hand is the next bit of the bytes fetched. -/
theorem DecodingInv.bitInHand {s : State} (inv : DecodingInv s) (quiet : s.pend = .none) (left : s.rmask ≠ 0x00) :
    ReadUpTo (s.buf ++ [s.rcur &&& s.rmask != 0]) (s.k + 1) { s with rmask := s.rmask >>> 1 } := by
  have mask := inv.mask
  have inByte : s.k % 8 ≠ 0 := fun boundary => left (by rw [mask, if_pos boundary])
  have room : s.k % 8 < 8 := Nat.mod_lt _ (by decide)
  rw [if_neg inByte] at mask
  obtain ⟨before, bytes, drawn, length, buf, last⟩ := inv.fetched
  have byte : bytes[s.k / 8]? = some s.rcur := by
    rw [← last inByte, List.getLast?_eq_getElem?, length]
    congr 1
    omega
  have bit : (s.rcur &&& s.rmask != 0) = s.rcur.getLsbD (7 - s.k % 8) := by
    rw [mask, mask_eq_twoPow _ room]
    exact and_twoPow_bne_zero _ (by omega)
  have nextBit : (s.k + 1) % 8 = (s.k % 8 + 1) % 8 := by omega
  exact
    { quiet := quiet
      fetched := ⟨before, bytes, drawn, by omega, by rw [take_succ_bitsOfBytes byte, ← buf, bit], fun _ => last inByte⟩
      mask := by rw [mask, nextBit]; exact read_mask_next _ room inByte }

/-- R110, R162: bit 7 of a byte just answered is the next bit of the bytes fetched. -/
theorem DecodingInv.bitFetched {s : State} (inv : DecodingInv s) (asked : s.pend = .src) (b : Byte)
    (rest : List SrcAnswer) :
    ReadUpTo (s.buf ++ [b.getLsbD 7]) (s.k + 1) { sourceAnswered b rest s with rmask := 0x40 } := by
  have boundary := inv.boundary asked
  obtain ⟨before, bytes, drawn, length, buf, -⟩ := inv.fetched
  have whole : s.k = 8 * bytes.length := by omega
  have byte : (bytes ++ [b])[s.k / 8]? = some b := by
    have index : s.k / 8 = bytes.length := by omega
    simp [index]
  have bits : s.buf = (bitsOfBytes (bytes ++ [b])).take s.k := by
    rw [bitsOfBytes_append, List.take_append_of_le_length (by rw [bitsOfBytes_length]; omega), ← buf]
  have nextBit : (s.k + 1) % 8 = 1 := by omega
  exact
    { quiet := rfl
      fetched := ⟨before, bytes ++ [b], by rw [← List.append_assoc, ← drawn]; rfl, by simp; omega,
        by rw [take_succ_bitsOfBytes byte, ← bits, boundary], fun _ => List.getLast?_concat⟩
      mask := by rw [nextBit]; rfl }

/-- R46, R162: a bit read, `K + 1` bits are. -/
theorem DecodingInv.bitRead {s u : State} {b : Bool} (inv : DecodingInv s) (read : BitRead s b u) :
    ReadUpTo (s.buf ++ [b]) (s.k + 1) u := by
  cases read with
  | inHand quiet left => exact inv.bitInHand quiet left
  | fetched b rest asked => exact inv.bitFetched asked b rest

/-! ## The invariant of the whole machine -/

theorem EncodingInv.congr {s t : State} (inv : EncodingInv s) (kept : RunKept s t) : EncodingInv t where
  prepared := kept.params ▸ kept.lat ▸ kept.buf ▸ inv.prepared
  length := kept.lat ▸ kept.buf ▸ inv.length
  progress := kept.lat ▸ kept.k ▸ inv.progress
  sent := kept.sunk ▸ kept.k ▸ kept.buf ▸ inv.sent
  partBit := kept.pend ▸ kept.wmask ▸ kept.wacc ▸ kept.k ▸ kept.buf ▸ inv.partBit
  wholeByte := kept.pend ▸ kept.k ▸ kept.buf ▸ inv.wholeByte

theorem DecodingInv.congr {s t : State} (inv : DecodingInv s) (kept : RunKept s t) : DecodingInv t where
  checked := kept.params ▸ kept.lat ▸ inv.checked
  length := kept.buf ▸ kept.k ▸ inv.length
  progress := kept.lat ▸ kept.k ▸ inv.progress
  fetched := kept.drawn ▸ kept.rcur ▸ kept.k ▸ kept.buf ▸ inv.fetched
  mask := kept.rmask ▸ kept.k ▸ inv.mask
  boundary := kept.pend ▸ kept.k ▸ inv.boundary

/-- What a host's move that is no command leaves to the invariant: everything but registers, which it keeps legal. -/
theorem Inv.congr {s t : State} (inv : Inv s) (kept : RunKept s t) (result : ResultInv t) (width : WidthInv t) :
    Inv t where
  adapter := inv.adapter.congr kept.rmask kept.wmask kept.wacc
  control := inv.control.congr kept
  result := result
  width := width
  encoding phase opened := (inv.encoding (kept.phase ▸ phase) (kept.opened ▸ opened)).congr kept
  decoding phase opened := (inv.decoding (kept.phase ▸ phase) (kept.opened ▸ opened)).congr kept

theorem encReady_encodingInv {s : State} {bits : List Bool} (quiet : s.pend = .none)
    (prepared : encPrepare s.params s.lat = .ok bits) : EncodingInv (encReady bits s) where
  prepared := prepared
  length := encodeBits_length (encPrepare_ok prepared).2.2
  progress := (show 0 < 8 by decide).trans_le (eight_le_of_checkFormat (encPrepare_ok prepared).1)
  sent := ⟨s.sunk, by show s.sunk = s.sunk ++ packBytes (0 / 8) bits; simp⟩
  partBit _ := ⟨rfl, by show (0x00 : Byte) = byteOfBits ((bits.take 0).drop (8 * (0 / 8))); simp [byteOfBits_nil]⟩
  wholeByte _ sent := nomatch quiet.symm.trans sent

theorem decReady_decodingInv {s : State} (checked : checkFormat s.params s.lat.descriptor = none) :
    DecodingInv (decReady s) where
  checked := checked
  length := rfl
  progress := (show 0 < 8 by decide).trans_le (eight_le_of_checkFormat checked)
  fetched := ⟨s.drawn, [], (List.append_nil _).symm, show 0 = (0 + 7) / 8 from rfl, rfl,
    fun inByte => absurd rfl inByte⟩
  mask := rfl
  boundary _ := rfl

theorem Inv.setUp {s u : State} (inv : Inv s) (busy : s.status.busy = true) (setUp : SetUp s u) : Inv u where
  adapter := adapterInv_kept.setUp busy inv.adapter setUp
  control := inv.control.setUp setUp
  result := resultInv_kept.setUp busy inv.result setUp
  width := widthInv_kept.setUp busy inv.width setUp
  encoding phase opened := by
    cases setUp with
    | none => exact inv.encoding phase opened
    | dec phase' => exact nomatch phase'.symm.trans phase
    | enc bits _ closed prepared =>
      exact encReady_encodingInv (inv.control.pend_none_of_not_opened (.inl phase) closed) prepared
  decoding phase opened := by
    cases setUp with
    | none => exact inv.decoding phase opened
    | dec _ _ checked =>
      exact decReady_decodingInv checked
    | enc bits phase' => exact nomatch phase'.symm.trans phase

/-- R46, R143: whatever a running `ENC` does next, it stands where its invariant says, or has ended. -/
theorem Inv.encoding_move {s t : State} (inv : Inv s) (move : Move s t) (phase : t.phase = .enc)
    (opened : t.opened = true) : EncodingInv t := by
  cases move with
  | waits => exact inv.encoding phase opened
  | asks reading => exact absurd reading (by simp [Reading, show s.phase = .enc from phase])
  | sends bit _ ofEnc quiet last =>
    have phase : s.phase = .enc := phase
    obtain rfl := ofEnc phase
    have running := inv.encoding phase opened
    have done := running.sentUpTo quiet
    have room : s.k % 8 < 8 := Nat.mod_lt _ (by decide)
    rw [done.mask, mask_leaves_iff _ room] at last
    exact
      { running with
        partBit := fun quiet => (nomatch quiet)
        wholeByte := fun b sent => by
          cases sent
          exact ⟨last, (accumulate_next done running.k_lt).trans (byteOfBits_complete last)⟩ }
  | decGoesOn dec _ read => cases read <;> exact nomatch dec.symm.trans phase
  | encGoesOn enc isOpen written more =>
    have running := inv.encoding enc isOpen
    obtain ⟨quiet, sent, mask, part⟩ := running.bitWritten inv.control written
    cases written <;>
      exact ⟨running.prepared, running.length, more, sent, fun _ => ⟨mask, part⟩,
        fun _ sending => nomatch quiet.symm.trans sending⟩
  | refuses | fetchFails | sendFails | decEnds | encEnds | rdbEnds | wrbEnds => exact nomatch phase

/-- R46, R162: whatever a running `DEC` does next, it stands where its invariant says, or has ended. -/
theorem Inv.decoding_move {s t : State} (inv : Inv s) (move : Move s t) (phase : t.phase = .dec)
    (opened : t.opened = true) : DecodingInv t := by
  cases move with
  | waits => exact inv.decoding phase opened
  | asks _ _ empty =>
    have running := inv.decoding phase opened
    have boundary : s.k % 8 = 0 := by
      by_contra inByte
      have room : s.k % 8 < 8 := Nat.mod_lt _ (by decide)
      have mask := running.mask
      rw [empty, if_neg inByte, mask_eq_twoPow _ room] at mask
      exact twoPow_ne_zero (by omega) mask.symm
    exact { running with boundary := fun _ => boundary }
  | sends _ writing => exact absurd writing (by simp [Writing, show s.phase = .dec from phase])
  | decGoesOn dec isOpen read more =>
    have running := inv.decoding dec isOpen
    obtain ⟨quiet, fetched, mask⟩ := running.bitRead read
    have length (b : Bool) : (s.buf ++ [b]).length = s.k + 1 := by rw [List.length_append, running.length]; rfl
    cases read <;>
      exact ⟨running.checked, length _, more, fetched, mask, fun asked => nomatch quiet.symm.trans asked⟩
  | encGoesOn enc _ written => cases written <;> exact nomatch enc.symm.trans phase
  | refuses | fetchFails | sendFails | decEnds | encEnds | rdbEnds | wrbEnds => exact nomatch phase

/-- No `ENC` or `DEC` is set up where nothing is. -/
theorem Inv.of_not_opened {s : State} (adapter : AdapterInv s) (control : ControlInv s) (result : ResultInv s)
    (width : WidthInv s) (closed : s.opened = false) : Inv s :=
  ⟨adapter, control, result, width, fun _ opened => (nomatch closed.symm.trans opened),
    fun _ opened => (nomatch closed.symm.trans opened)⟩

theorem ControlInv.closed_of_idle {s : State} (inv : ControlInv s) (idle : s.status.busy = false) :
    s.opened = false := by
  have phase := inv.idle_iff_not_busy.mpr idle
  cases opened : s.opened with
  | false => rfl
  | true => simpa [phase] using inv.opened_phase opened

theorem inv_kept : KeptByMoves Inv where
  inputs rest inv := inv.congr (runKept_inputs rest _) (resultInv_kept.inputs rest inv.result)
    (widthInv_kept.inputs rest inv.width)
  reset {s} c inv := by
    refine .of_not_opened (adapterInv_kept.reset c inv.adapter) (controlInv_kept.reset c inv.control)
      (resultInv_kept.reset c inv.result) (widthInv_kept.reset c inv.width) ?_
    obtain ⟨_, _, _, _, reset⟩ := applyReset_ports c s
    rw [reset]
    rfl
  hostRead r inv := inv.congr (runKept_hostRead r _) (resultInv_kept.hostRead r inv.result)
    (widthInv_kept.hostRead r inv.width)
  writeRegister r v inv := inv.congr (runKept_writeRegister r v _) (inv.result.writeRegister r v)
    (inv.width.writeRegister r v)
  illegal idle inv := .of_not_opened (adapterInv_kept.illegal idle inv.adapter)
    (controlInv_kept.illegal idle inv.control) (resultInv_kept.illegal idle inv.result) (widthInv_kept.illegal idle inv.width) (inv.control.closed_of_idle idle)
  accepted i idle inv := .of_not_opened (adapterInv_kept.accepted i idle inv.adapter) (inv.control.accepted idle i)
    (resultInv_kept.accepted i idle inv.result) (widthInv_kept.accepted i idle inv.width) (by cases i <;> rfl)
  setUp busy inv setUp := inv.setUp busy setUp
  move busy inv move :=
    { adapter := adapterInv_kept.move busy inv.adapter move
      control := inv.control.move move
      result := resultInv_kept.move busy inv.result move
      width := widthInv_kept.move busy inv.width move
      encoding := inv.encoding_move move
      decoding := inv.decoding_move move }

/-- Settles O38: the invariant is kept by each thing a step can be made of. -/
theorem invariantKeptByEveryStep : Obligations.InvariantKeptByEveryStep :=
  fun _ _ inv h => inv_kept.step inv h

/-- Settles O37: the reset values meet each part of the invariant, and no command runs. -/
theorem invariantAtReset : Obligations.InvariantAtReset :=
  .of_not_opened ⟨.inl rfl, writer_reset_legal⟩ (resetBlock_controlInv State.reset)
    (resultInv_of_zero rfl rfl rfl rfl) (resetBlock_widthInv State.reset) rfl

end Sys2Proof.Machine
end

section
/-!
PROOFS. What a step can do to the results, the ports and the bit counter (R27, R35 to R37, R46, R67 to R71): short of
reset a host's move leaves them, and each is read off the moves of the running command.
-/
namespace Sys2Proof.Machine

/-! ## A step is a host's move or a move of the running command -/

/-- The results, what the ports have moved, and the bit counter are as they were. -/
structure DataKept (s t : State) : Prop where
  rbit    : t.status.rbit = s.status.rbit
  outKind : t.outKind = s.outKind
  outExp  : t.outExp = s.outExp
  outMant : t.outMant = s.outMant
  sunk    : t.sunk = s.sunk
  drawn   : t.drawn = s.drawn
  k       : t.k = s.k

theorem accepted_dataKept (i : Instr) (s : State) : DataKept s (accepted i s) := by
  cases i <;> constructor <;> rfl

theorem hostWrite_dataKept {r : RegNo} {v : Int} {s t : State} (h : hostWrite r v s = .next t) : DataKept s t := by
  rcases hostWrite_cases h with ⟨_, _, rfl⟩ | ⟨_, idle, i, _, h⟩ | ⟨_, _, _, rfl⟩ | ⟨_, rfl⟩
  · constructor <;> rfl
  · rw [exec_of_not_busy idle] at h
    cases h
    exact accepted_dataKept i s
  · constructor <;> rfl
  · constructor <;> simp

/-- Short of reset, only the running command moves data. -/
theorem step_data_cases {s t : State} (h : step s = .next t) (noReset : ¬ResetNext s) :
    DataKept s t ∨ (s.status.busy = true ∧ ∃ rest, Runs { s with inputs := rest } t) := by
  rcases step_cases h with ⟨c, rest, hi, _⟩ | ⟨r, v, rest, _, h⟩ | ⟨r, rest, _, rfl⟩ | ⟨rest, _, _, rfl⟩ |
    ⟨rest, _, h⟩
  · exact absurd ⟨c, rest, hi⟩ noReset
  · have kept := hostWrite_dataKept h
    exact .inl { kept with }
  · exact .inl (by constructor <;> rfl)
  · exact .inl (by constructor <;> rfl)
  · rcases blockStep_runs h with rfl | ⟨busy, runs⟩
    · exact .inl (by constructor <;> rfl)
    · exact .inr ⟨busy, rest, runs⟩

/-! ## Who starts a command (R77, R90) -/

theorem accepted_running {i : Instr} {s : State} (busy : (accepted i s).status.busy = true) :
    i ≠ .sinit ∧ runningCommand (accepted i s) = some i := by
  cases i with
  | sinit => exact nomatch busy
  | enc | dec | rdb | wrb => exact ⟨by simp, rfl⟩

/-- Of the host's writes, only one of `CTRL` that is a command sets `BUSY`. -/
theorem hostWrite_starts {r : RegNo} {v : Int} {s t : State} (h : hostWrite r v s = .next t)
    (idle : s.status.busy = false) (busy : t.status.busy = true) :
    r = 0x0 ∧ ∃ i, decode (BitVec.ofInt 8 v) = .ok i ∧ i ≠ .sinit ∧ runningCommand t = some i := by
  rcases hostWrite_cases h with ⟨_, running, _⟩ | ⟨ctrl, _, i, command, h⟩ | ⟨_, _, _, rfl⟩ | ⟨_, rfl⟩
  · exact nomatch running.symm.trans idle
  · rw [exec_of_not_busy idle] at h
    cases h
    exact ⟨ctrl, i, command, accepted_running busy⟩
  · exact nomatch busy.symm.trans idle
  · rw [writeRegister_status] at busy
    exact nomatch busy.symm.trans idle

/-- Settles O43: of the moves that find the block idle, only the acceptance of a command sets `BUSY`. -/
theorem onlyCtrlWritesStartCommands : Obligations.OnlyCtrlWritesStartCommands := by
  intro s t h idle busy
  rcases step_cases h with ⟨c, rest, _, rfl⟩ | ⟨r, v, rest, hi, h⟩ | ⟨r, rest, _, rfl⟩ | ⟨rest, _, _, rfl⟩ |
    ⟨rest, _, h⟩
  · exact nomatch busy
  · obtain ⟨rfl, i, command, starts⟩ := hostWrite_starts h idle busy
    exact ⟨i, ⟨v, rest, hi, command⟩, starts⟩
  · exact nomatch busy.symm.trans idle
  · exact nomatch busy.symm.trans idle
  · have still := blockStep_of_idle (s := { s with inputs := rest }) idle
    cases still.symm.trans h
    exact nomatch busy.symm.trans idle

/-! ## Who writes the results (R27, R35 to R37) -/

theorem Move.rbit {s t : State} (move : Move s t) :
    t.status.rbit = s.status.rbit ∨ (s.phase = .rdb ∧ t.status.done = true ∧ t.status.err = 0) := by
  cases move with
  | waits | refuses | asks | fetchFails | sends | sendFails => exact .inl rfl
  | decGoesOn _ _ read | decEnds _ _ read => cases read <;> exact .inl rfl
  | encGoesOn _ _ written | encEnds _ _ written | wrbEnds _ written => cases written <;> exact .inl rfl
  | rdbEnds phase => exact .inr ⟨phase, rfl, rfl⟩

theorem Move.results {s t : State} (move : Move s t) :
    (t.outKind = s.outKind ∧ t.outExp = s.outExp ∧ t.outMant = s.outMant) ∨
      (s.phase = .dec ∧ t.status.done = true ∧ t.status.err = 0) := by
  cases move with
  | waits | refuses | asks | fetchFails | sends | sendFails => exact .inl ⟨rfl, rfl, rfl⟩
  | decGoesOn _ _ read | rdbEnds _ read => cases read <;> exact .inl ⟨rfl, rfl, rfl⟩
  | encGoesOn _ _ written | encEnds _ _ written | wrbEnds _ written => cases written <;> exact .inl ⟨rfl, rfl, rfl⟩
  | decEnds phase => exact .inr ⟨phase, rfl, rfl⟩

/-- What comes before the first bit moves no data but `K`, and stays in the phase. -/
theorem SetUp.keeps {s u : State} (setUp : SetUp s u) :
    u.phase = s.phase ∧ u.pend = s.pend ∧ u.source = s.source ∧ u.sink = s.sink ∧ u.drawn = s.drawn ∧
    u.sunk = s.sunk ∧ u.status.rbit = s.status.rbit ∧ u.outKind = s.outKind ∧ u.outExp = s.outExp ∧
    u.outMant = s.outMant ∧ u.lat = s.lat := by
  cases setUp <;> exact ⟨rfl, rfl, rfl, rfl, rfl, rfl, rfl, rfl, rfl, rfl, rfl⟩

/-- Settles O46: the moves that write `RBIT` or `OUT_*` are the last ones of `RDB` and of `DEC`. -/
theorem resultsHaveOneWriter : Obligations.ResultsHaveOneWriter := by
  intro s t h noReset
  rcases step_data_cases h noReset with kept | ⟨busy, rest, u, setUp, move⟩
  · exact ⟨fun changed => absurd kept.rbit changed,
      fun changed => by simp [kept.outKind, kept.outExp, kept.outMant] at changed⟩
  · obtain ⟨phase, -, -, -, -, -, rbit, outKind, outExp, outMant, -⟩ := setUp.keeps
    constructor
    · intro changed
      rcases move.rbit with same | ⟨rdb, ended⟩
      · exact absurd (same.trans rbit) changed
      · exact ⟨busy, phase.symm.trans rdb, ended⟩
    · intro changed
      rcases move.results with ⟨sameKind, sameExp, sameMant⟩ | ⟨dec, ended⟩
      · simp [sameKind.trans outKind, sameExp.trans outExp, sameMant.trans outMant] at changed
      · exact ⟨busy, phase.symm.trans dec, ended⟩

/-! ## The ports (R67, R69, R71) -/

theorem BitRead.drawn {s u : State} {b : Bool} (read : BitRead s b u) :
    u.drawn = s.drawn ∨
      ∃ byte rest, s.pend = .src ∧ s.source = .ok byte :: rest ∧ u.drawn = s.drawn ++ [byte] ∧ u.source = rest := by
  cases read with
  | inHand => exact .inl rfl
  | fetched byte rest asked answer => exact .inr ⟨byte, rest, asked, answer, rfl, rfl⟩

theorem BitWritten.sunk {s u : State} {bit : Bool} (written : BitWritten bit s u) :
    u.sunk = s.sunk ∨
      ∃ byte rest, s.pend = .snk byte ∧ s.sink = .ok :: rest ∧ u.sunk = s.sunk ++ [byte] ∧ u.sink = rest := by
  cases written with
  | stored => exact .inl rfl
  | taken byte rest sent answer => exact .inr ⟨byte, rest, sent, answer, rfl, rfl⟩

theorem Move.sunk {s t : State} (move : Move s t) :
    t.sunk = s.sunk ∨ ((s.phase = .enc ∨ s.phase = .wrb) ∧
      ∃ b rest, s.pend = .snk b ∧ s.sink = .ok :: rest ∧ t.sunk = s.sunk ++ [b] ∧ t.sink = rest) := by
  cases move with
  | waits | refuses | asks | fetchFails | sends | sendFails => exact .inl rfl
  | decGoesOn _ _ read | decEnds _ _ read | rdbEnds _ read => cases read <;> exact .inl rfl
  | encGoesOn phase _ written | encEnds phase _ written => exact written.sunk.imp id fun moved => ⟨.inl phase, moved⟩
  | wrbEnds phase written => exact written.sunk.imp id fun moved => ⟨.inr phase, moved⟩

theorem Move.drawn {s t : State} (move : Move s t) :
    t.drawn = s.drawn ∨ ((s.phase = .dec ∨ s.phase = .rdb) ∧
      ∃ b rest, s.pend = .src ∧ s.source = .ok b :: rest ∧ t.drawn = s.drawn ++ [b] ∧ t.source = rest) := by
  cases move with
  | waits | refuses | asks | fetchFails | sends | sendFails => exact .inl rfl
  | decGoesOn phase _ read | decEnds phase _ read => exact read.drawn.imp id fun moved => ⟨.inl phase, moved⟩
  | rdbEnds phase read => exact read.drawn.imp id fun moved => ⟨.inr phase, moved⟩
  | encGoesOn _ _ written | encEnds _ _ written | wrbEnds _ written => cases written <;> exact .inl rfl

/-- Settles O47: a byte moves where a bit is read from a byte just answered, or written with the byte taken. -/
theorem portsMoveOneByteAtATime : Obligations.PortsMoveOneByteAtATime := by
  intro s t h noReset
  rcases step_data_cases h noReset with kept | ⟨_, rest, u, setUp, move⟩
  · exact ⟨.inl kept.sunk, .inl kept.drawn⟩
  · obtain ⟨phase, pend, source, sink, drawn, sunk, -⟩ := setUp.keeps
    have sinkMoves := move.sunk
    have sourceMoves := move.drawn
    rw [phase, pend, sink, sunk] at sinkMoves
    rw [phase, pend, source, drawn] at sourceMoves
    exact ⟨sinkMoves, sourceMoves⟩

/-! ## The bit counter (R46) -/

theorem BitRead.k {s u : State} {b : Bool} (read : BitRead s b u) : u.k = s.k := by cases read <;> rfl

theorem BitWritten.k {s u : State} {bit : Bool} (written : BitWritten bit s u) : u.k = s.k := by
  cases written <;> rfl

theorem BitRead.lat {s u : State} {b : Bool} (read : BitRead s b u) : u.lat = s.lat := by cases read <;> rfl

theorem BitWritten.lat {s u : State} {bit : Bool} (written : BitWritten bit s u) : u.lat = s.lat := by
  cases written <;> rfl

theorem BitRead.buf {s u : State} {b : Bool} (read : BitRead s b u) : u.buf = s.buf := by cases read <;> rfl

theorem Move.k {s t : State} (move : Move s t) :
    t.k = s.k ∨ ((s.phase = .enc ∨ s.phase = .dec) ∧ s.opened = true ∧ t.k = s.k + 1) := by
  cases move with
  | waits | refuses | asks | fetchFails | sends | sendFails => exact .inl rfl
  | decGoesOn phase opened read | decEnds phase opened read =>
    exact .inr ⟨.inr phase, opened, congrArg (· + 1) read.k⟩
  | encGoesOn phase opened written | encEnds phase opened written =>
    exact .inr ⟨.inl phase, opened, congrArg (· + 1) written.k⟩
  | rdbEnds _ read => exact .inl read.k
  | wrbEnds _ written => exact .inl written.k

/-- R46: what a running `ENC` or `DEC` has yet to do. -/
theorem Inv.k_lt {s : State} (inv : Inv s) (phase : s.phase = .enc ∨ s.phase = .dec) (opened : s.opened = true) :
    s.k < s.lat.descriptor.n :=
  phase.elim (fun enc => (inv.encoding enc opened).progress) (fun dec => (inv.decoding dec opened).progress)

/-- R130, R160: a command set up with nothing pending and more than one bit to go stays set up. -/
theorem Move.stays_opened {s t : State} (move : Move s t) (phase : s.phase = .enc ∨ s.phase = .dec)
    (opened : s.opened = true) (quiet : s.pend = .none) (more : s.k + 1 < s.lat.descriptor.n) : t.opened = true := by
  cases move with
  | waits | asks | sends => exact opened
  | refuses _ cause =>
    rcases cause with ⟨_, stream⟩ | ⟨closed, _⟩
    · rcases phase with phase | phase <;> simp [phase] at stream
    · exact nomatch closed.symm.trans opened
  | fetchFails _ _ asked => exact nomatch quiet.symm.trans asked
  | sendFails _ _ _ sent => exact nomatch quiet.symm.trans sent
  | decGoesOn _ _ read => cases read <;> exact opened
  | encGoesOn _ _ written => cases written <;> exact opened
  | decEnds _ _ read last => cases read <;> exact absurd more (not_lt.mpr last)
  | encEnds _ _ written last => cases written <;> exact absurd more (not_lt.mpr last)
  | rdbEnds rdb | wrbEnds rdb => rcases phase with phase | phase <;> exact nomatch phase.symm.trans rdb

/-- R46: the first step of `ENC` or `DEC` counts at most its first bit. -/
theorem Move.first_bit {u t : State} (move : Move u t) (phase : u.phase = .enc ∨ u.phase = .dec)
    (opened : u.opened = true) (quiet : u.pend = .none) (start : u.k = 0) (bits : 8 ≤ u.lat.descriptor.n) :
    t.opened = true ∧ t.k ≤ 1 := by
  refine ⟨move.stays_opened phase opened quiet (by omega), ?_⟩
  rcases move.k with same | ⟨_, _, next⟩ <;> omega

/-- Settles O48: a move counts the bit it finishes; a set-up starts from 0, with at least eight bits to go. -/
theorem bitCounterAdvancesByOne : Obligations.BitCounterAdvancesByOne := by
  intro s t inv h noReset changed
  rcases step_data_cases h noReset with kept | ⟨_, rest, u, setUp, move⟩
  · exact absurd kept.k changed
  · cases setUp with
    | none =>
      rcases move.k with same | ⟨phase, opened, next⟩
      · exact absurd same changed
      · have room := inv.k_lt phase opened
        exact ⟨phase, next ▸ room, .inl ⟨opened, next⟩⟩
    | dec phase closed checked =>
      have quiet := inv.control.pend_none_of_not_opened (.inr phase) closed
      have bits := eight_le_of_checkFormat checked
      obtain ⟨opened, first⟩ := Move.first_bit move (.inr phase) rfl quiet rfl bits
      have room : t.k ≤ s.lat.descriptor.n := first.trans ((by decide : 1 ≤ 8).trans bits)
      exact ⟨.inr phase, room, .inr ⟨closed, opened, first⟩⟩
    | enc _ phase closed prepared =>
      have quiet := inv.control.pend_none_of_not_opened (.inl phase) closed
      have bits := eight_le_of_checkFormat (encPrepare_ok prepared).1
      obtain ⟨opened, first⟩ := Move.first_bit move (.inl phase) rfl quiet rfl bits
      have room : t.k ≤ s.lat.descriptor.n := first.trans ((by decide : 1 ≤ 8).trans bits)
      exact ⟨.inl phase, room, .inr ⟨closed, opened, first⟩⟩

/-! ## How `ENC` and `DEC` end without error (R143, R162, R170) -/

theorem errorCode_ne_zero (e : ErrorKind) : errorCode e ≠ 0 := by cases e <;> decide

/-- Short of reset, what ends a command is one of its moves, from a state in which it is set up as far as it goes. -/
theorem Inv.ends {s t : State} (inv : Inv s) (running : s.phase ≠ .idle) (noReset : ¬ResetNext s)
    (h : step s = .next t) (idle : t.status.busy = false) :
    ∃ u, Inv u ∧ u.status.busy = true ∧ u.phase = s.phase ∧ u.lat = s.lat ∧ Move u t := by
  have busy := inv.control.busy_of_phase running
  rcases step_cases_of_busy busy noReset h with kept | ⟨rest, _, h⟩
  · exact nomatch (kept.busy.trans busy).symm.trans idle
  · rcases blockStep_runs h with rfl | ⟨_, u, setUp, move⟩
    · exact nomatch busy.symm.trans idle
    · obtain ⟨phase, -, -, -, -, -, -, -, -, -, lat⟩ := setUp.keeps
      exact ⟨u, (inv_kept.inputs rest inv).setUp busy setUp, setUp.busy.trans busy, phase, lat, move⟩

theorem Move.enc_ends {s t : State} (move : Move s t) (phase : s.phase = .enc) (busy : s.status.busy = true)
    (idle : t.status.busy = false) (noError : t.status.err = 0) :
    ∃ u, s.opened = true ∧ BitWritten (s.buf.getD s.k false) s u ∧ s.lat.descriptor.n ≤ s.k + 1 ∧
      t = complete { u with k := u.k + 1 } := by
  cases move with
  | waits | asks | sends => exact nomatch busy.symm.trans idle
  | refuses e => exact absurd noError (errorCode_ne_zero e)
  | fetchFails | sendFails => exact absurd noError (errorCode_ne_zero .ioFailure)
  | encGoesOn _ _ written => cases written <;> exact nomatch busy.symm.trans idle
  | encEnds _ opened written last => exact ⟨_, opened, written, written.lat ▸ written.k ▸ last, rfl⟩
  | decGoesOn other | decEnds other | rdbEnds other | wrbEnds other => exact nomatch phase.symm.trans other

theorem Move.dec_ends {s t : State} (move : Move s t) (phase : s.phase = .dec) (busy : s.status.busy = true)
    (idle : t.status.busy = false) (noError : t.status.err = 0) :
    ∃ b u, s.opened = true ∧ BitRead s b u ∧ s.lat.descriptor.n ≤ s.k + 1 ∧
      t = complete (writeResult (decodeBits (s.buf ++ [b]) s.lat.descriptor)
        { u with buf := s.buf ++ [b], k := s.k + 1 }) := by
  cases move with
  | waits | asks | sends => exact nomatch busy.symm.trans idle
  | refuses e => exact absurd noError (errorCode_ne_zero e)
  | fetchFails | sendFails => exact absurd noError (errorCode_ne_zero .ioFailure)
  | decGoesOn _ _ read => cases read <;> exact nomatch busy.symm.trans idle
  | decEnds _ opened read last =>
    exact ⟨_, _, opened, read, read.lat ▸ read.k ▸ last, by rw [read.buf, read.lat, read.k]⟩
  | encGoesOn other | encEnds other | rdbEnds other | wrbEnds other => exact nomatch phase.symm.trans other

/-- R143: with every bit written the writer stands at a byte boundary. -/
theorem SentUpTo.at_boundary {u : State} {bits : List Bool} {k : Nat} (done : SentUpTo bits k u) (whole : k % 8 = 0) :
    u.wacc = 0x00 ∧ u.wmask = 0x80 := by
  have noBit : (bits.take k).drop (8 * (k / 8)) = [] := by
    rw [List.drop_eq_nil_iff, List.length_take]
    omega
  exact ⟨by rw [done.part, noBit, byteOfBits_nil], by rw [done.mask, whole]; rfl⟩

theorem latched_number (l : Latched) :
    (l.tag = 0 → l.number = .zero l.sign) ∧ (l.tag = 1 → l.number = .infinity l.sign) ∧
    (l.tag = 2 → l.number = .nan) ∧ (l.tag = 3 → l.number = .finite l.sign l.exp l.mant) := by
  unfold Latched.number
  refine ⟨fun tag => ?_, fun tag => ?_, fun tag => ?_, fun tag => ?_⟩ <;> rw [tag] <;> rfl

/-- Settles O24: the last move of `ENC` writes bit `N - 1`, so all `N` bits are sent and no bit is left over. -/
theorem encEndsWithItsBytesSent : Obligations.EncEndsWithItsBytesSent := by
  refine ⟨fun s t inv enc noReset h idle noError => ?_, fun l => ⟨rfl, latched_number l⟩⟩
  obtain ⟨u, inv, busy, phase, lat, move⟩ := inv.ends (by simp [enc]) noReset h idle
  obtain ⟨v, opened, written, last, rfl⟩ := move.enc_ends (phase.trans enc) busy idle noError
  have running := inv.encoding (phase.trans enc) opened
  have allBits : u.k + 1 = s.lat.descriptor.n := by
    have more := running.progress
    rw [lat] at last more
    omega
  obtain ⟨format, -, encoded⟩ := encPrepare_ok running.prepared
  rw [lat] at format encoded
  obtain ⟨whole, -⟩ := checkFormat_none format
  have done := running.bitWritten inv.control written
  rw [allBits] at done
  obtain ⟨before, sunk⟩ := done.sent
  obtain ⟨wacc, wmask⟩ := done.at_boundary whole
  exact ⟨u.buf, before, encoded, sunk, wacc, wmask, (congrArg (· + 1) written.k).trans allBits⟩

/-- R162: with every bit read, the bits are those of the whole bytes fetched, and no bit is left in the reader. -/
theorem ReadUpTo.at_boundary {u : State} {bits : List Bool} {k : Nat} (done : ReadUpTo bits k u) (whole : k % 8 = 0) :
    (∃ before bytes, u.drawn = before ++ bytes ∧ bytes.length = k / 8 ∧ bits = bitsOfBytes bytes) ∧
      u.rmask = 0x00 := by
  obtain ⟨before, bytes, drawn, length, bits, -⟩ := done.fetched
  have all : (bitsOfBytes bytes).length ≤ k := by
    rw [bitsOfBytes_length]
    omega
  exact ⟨⟨before, bytes, drawn, by omega, bits.trans (List.take_of_length_le all)⟩, by rw [done.mask, if_pos whole]⟩

/-- Settles O36: the last move of `DEC` reads bit `N - 1`, so `BUF` is the bits of the last `N / 8` bytes. -/
theorem decEndsWithItsBytesDecoded : Obligations.DecEndsWithItsBytesDecoded := by
  intro s t inv dec noReset h idle noError
  obtain ⟨u, inv, busy, phase, lat, move⟩ := inv.ends (by simp [dec]) noReset h idle
  obtain ⟨b, v, opened, read, last, rfl⟩ := move.dec_ends (phase.trans dec) busy idle noError
  have running := inv.decoding (phase.trans dec) opened
  have allBits : u.k + 1 = s.lat.descriptor.n := by
    have more := running.progress
    rw [lat] at last more
    omega
  obtain ⟨whole, -⟩ := checkFormat_none (lat ▸ running.checked)
  have done := running.bitRead read
  rw [allBits] at done
  obtain ⟨⟨before, bytes, drawn, length, bits⟩, rmask⟩ := done.at_boundary whole
  rw [bits, lat]
  exact ⟨before, bytes, drawn, length, rfl, rfl, rfl, rmask, allBits⟩

end Sys2Proof.Machine
end

section
/-!
PROOFS. Where a step is refused (R170, log entry 9) and that legal parameters rule it out (R6, R171, R173): the one
refusal is a decoded number that the result registers cannot hold, and the check of R6 makes room for every one.
-/
namespace Sys2Proof.Machine

/-! ## The one refusal -/

theorem readBit_refused {cont : Bool → State → Out} {s : State} {r : Refusal} (h : readBit cont s = .refused r) :
    ∃ b u, BitRead s b u ∧ cont b u = .refused r := by
  cases hp : s.pend with
  | none =>
    by_cases hm : s.rmask = 0x00
    · rw [readBit_request hp hm] at h
      cases h
    · rw [readBit_deliver hp hm] at h
      exact ⟨_, _, .inHand hp hm, h⟩
  | src =>
    cases hs : s.source with
    | nil =>
      rw [readBit_unanswered hp hs] at h
      cases h
    | cons answer rest =>
      cases answer with
      | fail =>
        rw [readBit_failed hp hs] at h
        cases h
      | ok b =>
        rw [readBit_answered hp hs] at h
        exact ⟨_, _, .fetched b rest hp hs, h⟩
  | snk b =>
    rw [readBit, hp] at h
    cases h

theorem writeBit_refused {bit : Bool} {cont : State → Out} {s : State} {r : Refusal}
    (h : writeBit bit cont s = .refused r) : ∃ u, BitWritten bit s u ∧ cont u = .refused r := by
  cases hp : s.pend with
  | none =>
    by_cases hm : s.wmask >>> 1 = 0x00
    · rw [writeBit_send hp hm] at h
      cases h
    · rw [writeBit_store hp hm] at h
      exact ⟨_, .stored hp hm, h⟩
  | src =>
    rw [writeBit, hp] at h
    cases h
  | snk out =>
    cases hs : s.sink with
    | nil =>
      rw [writeBit_unanswered hp hs] at h
      cases h
    | cons answer rest =>
      cases answer with
      | fail =>
        rw [writeBit_failed hp hs] at h
        cases h
      | ok =>
        rw [writeBit_taken hp hs] at h
        exact ⟨_, .taken out rest hp hs, h⟩

theorem decFinish_too_wide {s : State} (wide : resultFits s.params (decodeBits s.buf s.lat.descriptor) = false) :
    decFinish s = .refused .resultWiderThanInstance := by
  rw [decFinish, if_neg (by simp [wide])]

theorem decAdvance_refused {b : Bool} {s : State} {r : Refusal} (h : decAdvance b s = .refused r) :
    r = .resultWiderThanInstance ∧ s.lat.descriptor.n ≤ s.k + 1 ∧
      resultFits s.params (decodeBits (s.buf ++ [b]) s.lat.descriptor) = false := by
  unfold decAdvance decFinish at h
  split at h
  · cases h
  next last =>
    split at h
    · cases h
    next wide =>
      cases h
      exact ⟨rfl, not_lt.mp last, by simpa using wide⟩

/-- What a refusal says of the `DEC` that meets it. -/
def RefusesResult (s : State) (r : Refusal) : Prop :=
  r = .resultWiderThanInstance ∧ s.lat.descriptor.n ≤ s.k + 1 ∧
    ∃ b, resultFits s.params (decodeBits (s.buf ++ [b]) s.lat.descriptor) = false

theorem decRead_refused {s : State} {r : Refusal} (h : decRead s = .refused r) : RefusesResult s r := by
  obtain ⟨b, u, read, h⟩ := readBit_refused h
  obtain ⟨name, last, wide⟩ := decAdvance_refused h
  cases read <;> exact ⟨name, last, _, wide⟩

/-- R160, R161: the first bit of a `DEC` that passed its checks is not its last. -/
theorem decOpen_ne_refused (s : State) (r : Refusal) : decOpen s ≠ .refused r := by
  intro h
  unfold decOpen at h
  split at h
  · cases h
  next checked =>
    obtain ⟨_, last, _⟩ := decRead_refused h
    have bits := eight_le_of_checkFormat checked
    have last : s.lat.descriptor.n ≤ 0 + 1 := last
    omega

theorem encWrite_ne_refused (s : State) (r : Refusal) : encWrite s ≠ .refused r := by
  intro h
  obtain ⟨u, _, h⟩ := writeBit_refused h
  unfold encAdvance at h
  split at h <;> cases h

theorem encOpen_ne_refused (s : State) (r : Refusal) : encOpen s ≠ .refused r := by
  intro h
  unfold encOpen at h
  split at h
  · cases h
  · exact encWrite_ne_refused _ _ h

theorem rdbRun_ne_refused (s : State) (r : Refusal) : rdbRun s ≠ .refused r := by
  intro h
  unfold rdbRun at h
  split at h
  · cases h
  · obtain ⟨_, _, _, h⟩ := readBit_refused h
    cases h

theorem wrbRun_ne_refused (s : State) (r : Refusal) : wrbRun s ≠ .refused r := by
  intro h
  unfold wrbRun at h
  split at h
  · cases h
  · obtain ⟨_, _, h⟩ := writeBit_refused h
    cases h

/-- Log entry 9: of all commands' steps, only the last of a `DEC` is refused. -/
theorem exec_refused {i : Instr} {s : State} {r : Refusal} (h : exec i s = .refused r) :
    i = .dec ∧ s.status.busy = true ∧ s.phase = .dec ∧ s.opened = true ∧ RefusesResult s r := by
  cases busy : s.status.busy with
  | false =>
    rw [exec_of_not_busy busy] at h
    cases h
  | true =>
    cases i with
    | enc =>
      simp only [exec, execEnc, busy, if_true] at h
      split_ifs at h
      · exact absurd h (encWrite_ne_refused s r)
      · exact absurd h (encOpen_ne_refused s r)
    | dec =>
      simp only [exec, execDec, busy, if_true] at h
      split_ifs at h with phase opened
      · exact ⟨rfl, rfl, phase, opened, decRead_refused h⟩
      · exact absurd h (decOpen_ne_refused s r)
    | rdb =>
      simp only [exec, execRdb, busy, if_true] at h
      split_ifs at h
      exact absurd h (rdbRun_ne_refused s r)
    | wrb w =>
      simp only [exec, execWrb, busy, if_true] at h
      split_ifs at h
      exact absurd h (wrbRun_ne_refused s r)
    | sinit =>
      simp only [exec, execSinit, busy, if_true] at h
      cases h

/-- Settles O34: `decFinish` is the only operation that refuses, and a `DEC` comes to it at its last bit alone. -/
theorem narrowInstanceIsRefused : Obligations.NarrowInstanceIsRefused := by
  refine ⟨?tooWide, ?only⟩
  case tooWide =>
    rintro s _ hb phase opened hp hm last rfl wide
    calc exec .dec s
      _ = decAdvance (s.rcur &&& s.rmask != 0) { s with rmask := s.rmask >>> 1 } :=
        exec_dec_deliver hb phase opened hp hm
      _ = decFinish _ := decAdvance_last last
      _ = _ := decFinish_too_wide wide
  case only =>
    intro i s r h
    obtain ⟨rfl, hb, phase, opened, rfl, last, wide⟩ := exec_refused h
    exact ⟨rfl, rfl, hb, phase, opened, last, wide⟩

/-! ## Legal parameters make room for every result (R6, R173) -/

/-- R41: a value of the register's range is held whole. -/
theorem fitsSigned_of_range {w : Nat} {v : Int} (hw : 1 ≤ w) (low : -(2 ^ (w - 1)) ≤ v) (high : v < 2 ^ (w - 1)) :
    fitsSigned (some w) v = true := by
  have half : (2 : Nat) ^ w = 2 * 2 ^ (w - 1) := by rw [← pow_succ', Nat.sub_add_cancel hw]
  have cast : ((2 ^ (w - 1) : Nat) : Int) = 2 ^ (w - 1) := by norm_cast
  rw [fitsSigned, keepSigned, decide_eq_true_iff, half]
  exact Int.bmod_eq_of_le (by omega) (by omega)

theorem range_of_fitsSigned {w : Nat} {v : Int} (hw : 1 ≤ w) (fits : fitsSigned (some w) v = true) :
    -(2 ^ (w - 1)) ≤ v ∧ v < 2 ^ (w - 1) := by
  obtain ⟨-, range⟩ := keepSigned_some_spec hw v
  rwa [of_decide_eq_true fits] at range

/-- R173: the exponents of all finite numbers of a format. -/
theorem decoded_exponent_range {B : List Bool} {d : Descriptor} {s : Bool} {e : Int} {m : Nat} (hB : B.length = d.n)
    (h : decodeBits B d = .finite s e m) : 1 - d.m - d.bias ≤ e ∧ e ≤ 2 ^ d.e - 2 - d.bias := by
  obtain ⟨-, below, -⟩ := decodeBits_eq_finite h
  have he : 1 ≤ d.e := Nat.pos_of_ne_zero fun none => by simp [none, allOnes] at below
  have room : (2 : Int) ^ 1 ≤ 2 ^ d.e := pow_le_pow_right₀ (by decide) he
  obtain ⟨subnormal, normal, -⟩ := decodedRanges B d s e m he hB h
  by_cases exponent : exponentField B d = 0
  · have range := subnormal exponent
    omega
  · have range := normal exponent
    omega

/-- R6: what the check of the parameters says. -/
theorem wf_constraints {p : Params} (wf : p.wf = true) :
    (∀ b, p.biasW = some b → 1 ≤ b) ∧ (∀ w, p.mantW = some w → p.mMax + 1 ≤ w) ∧ p.exponentsFit = true := by
  simp only [Params.wf, Bool.and_eq_true] at wf
  obtain ⟨⟨⟨-, bias⟩, mantissa⟩, exponents⟩ := wf
  refine ⟨fun b hb => ?_, fun w hw => ?_, exponents⟩
  · simpa [hb] using bias
  · simpa [hw] using mantissa

/-- R6: the exponents that a bounded `NUM_EXP_W` must hold. -/
theorem exponentsFit_constraints {p : Params} {w : Nat} (fits : p.exponentsFit = true) (hw : p.expW = some w) :
    ∃ b, p.biasW = some b ∧ 1 ≤ w ∧ -(2 ^ (w - 1) : Int) ≤ 2 - p.mMax - 2 ^ (b - 1) ∧
      (2 ^ p.eMax - 2 + 2 ^ (b - 1) : Int) ≤ 2 ^ (w - 1) - 1 := by
  cases hb : p.biasW with
  | none => simp [Params.exponentsFit, hw, hb] at fits
  | some b => exact ⟨b, rfl, by simpa [Params.exponentsFit, hw, hb] using fits⟩

theorem fitsSigned_decoded_exponent {p : Params} {d : Descriptor} {e : Int} (wf : p.wf = true)
    (format : checkFormat p d = none) (bias : fitsSigned p.biasW d.bias = true) (low : 1 - d.m - d.bias ≤ e)
    (high : e ≤ 2 ^ d.e - 2 - d.bias) : fitsSigned p.expW e = true := by
  cases hw : p.expW with
  | none => simp [fitsSigned, keepSigned]
  | some w =>
    obtain ⟨biasWidth, -, exponents⟩ := wf_constraints wf
    obtain ⟨b, hb, one_le, least, greatest⟩ := exponentsFit_constraints exponents hw
    obtain ⟨-, widthE, widthM⟩ := checkFormat_none format
    rw [hb] at bias
    obtain ⟨biasLow, biasHigh⟩ := range_of_fitsSigned (biasWidth b hb) bias
    have top : (2 : Int) ^ d.e ≤ 2 ^ p.eMax := pow_le_pow_right₀ (by decide) widthE
    exact fitsSigned_of_range one_le (by omega) (by omega)

theorem fitsUnsigned_decoded_mantissa {p : Params} {d : Descriptor} {m : Nat} (wf : p.wf = true)
    (format : checkFormat p d = none) (high : m ≤ 2 ^ (d.m + 1) - 1) : fitsUnsigned p.mantW m = true := by
  cases hw : p.mantW with
  | none => rfl
  | some w =>
    obtain ⟨-, mantissaWidth, -⟩ := wf_constraints wf
    obtain ⟨-, -, widthM⟩ := checkFormat_none format
    have room := mantissaWidth w hw
    have pos : 0 < 2 ^ (d.m + 1) := by positivity
    have top : 2 ^ (d.m + 1) ≤ 2 ^ w := Nat.pow_le_pow_right (by decide) (by omega)
    rw [fitsUnsigned, decide_eq_true_iff]
    omega

/-- R6, R171: under legal parameters the result registers hold whatever is decoded. -/
theorem resultFits_of_wf {p : Params} {d : Descriptor} {B : List Bool} (wf : p.wf = true)
    (format : checkFormat p d = none) (bias : fitsSigned p.biasW d.bias = true) (hB : B.length = d.n) :
    resultFits p (decodeBits B d) = true := by
  rw [resultFits, Bool.and_eq_true]
  cases decoded : decodeBits B d with
  | finite s e m =>
    obtain ⟨low, high⟩ := decoded_exponent_range hB decoded
    obtain ⟨-, -, mantissa⟩ := decodedMantissaIsOdd B d s e m decoded
    exact ⟨fitsSigned_decoded_exponent wf format bias low high, fitsUnsigned_decoded_mantissa wf format mantissa⟩
  | zero | infinity | nan => exact ⟨fitsSigned_zero _, fitsUnsigned_zero _⟩

/-! ## No step is refused under legal parameters -/

theorem Inv.exec_ne_refused {s : State} (inv : Inv s) (wf : s.params.wf = true) (i : Instr) (r : Refusal) :
    exec i s ≠ .refused r := by
  intro h
  obtain ⟨-, -, phase, opened, -, last, b, wide⟩ := exec_refused h
  have running := inv.decoding phase opened
  have length : (s.buf ++ [b]).length = s.lat.descriptor.n := by
    have more := running.progress
    rw [List.length_append, running.length, List.length_singleton]
    omega
  have fits := resultFits_of_wf wf running.checked inv.width.latBias length
  exact nomatch fits.symm.trans wide

theorem blockStep_refused {s : State} {r : Refusal} (h : blockStep s = .refused r) : ∃ i, exec i s = .refused r := by
  cases hr : runningCommand s with
  | none =>
    rw [blockStep_of_no_command hr] at h
    cases h
  | some i =>
    cases busy : s.status.busy with
    | false =>
      rw [blockStep_of_idle busy] at h
      cases h
    | true => exact ⟨i, blockStep_running busy hr ▸ h⟩

theorem hostWrite_refused {reg : RegNo} {v : Int} {s : State} {r : Refusal} (h : hostWrite reg v s = .refused r) :
    ∃ i, exec i s = .refused r := by
  unfold hostWrite at h
  split at h
  · unfold writeCtrl at h
    split at h
    · cases h
    · split at h
      next i _ => exact ⟨i, h⟩
      · cases h
  · cases h

/-- A refused step is a refused step of a command. -/
theorem step_refused {s : State} {r : Refusal} (h : step s = .refused r) :
    ∃ i rest, exec i { s with inputs := rest } = .refused r := by
  unfold step at h
  split at h
  · obtain ⟨i, h⟩ := blockStep_refused h
    exact ⟨i, s.inputs, h⟩
  next input rest _ =>
    cases input with
    | reset | read => cases h
    | write =>
      obtain ⟨i, h⟩ := hostWrite_refused h
      exact ⟨i, rest, h⟩
    | wait =>
      simp only [takeInput] at h
      split at h
      · obtain ⟨i, h⟩ := blockStep_refused h
        exact ⟨i, s.inputs, h⟩
      · cases h
    | block =>
      obtain ⟨i, h⟩ := blockStep_refused h
      exact ⟨i, rest, h⟩

/-- Settles O42: a step could only stop in the one refusal, and under legal parameters the registers hold the result. -/
theorem legalInstanceNeverStops : Obligations.LegalInstanceNeverStops := by
  intro s wf inv
  cases h : step s with
  | next t => exact ⟨t, rfl⟩
  | fault r => exact nomatch r
  | refused r =>
    obtain ⟨i, rest, h⟩ := step_refused h
    exact absurd h ((inv_kept.inputs rest inv).exec_ne_refused wf i r)

end Sys2Proof.Machine
end

section
/-!
PROOFS. The frames of the reading and of the writing commands over every step of theirs, and what the reset input leaves
of a pending transaction (R211).
-/
namespace Sys2Proof.Machine

/-! ## What `RDB` and `DEC` leave -/

/-- The operand registers, the writer, the sink, the moves to come, the host's record and the parameters are as they
were. -/
structure ReadingFrame (s t : State) : Prop where
  params  : t.params = s.params
  fmtE    : t.fmtE = s.fmtE
  fmtM    : t.fmtM = s.fmtM
  fmtBias : t.fmtBias = s.fmtBias
  inKind  : t.inKind = s.inKind
  inExp   : t.inExp = s.inExp
  inMant  : t.inMant = s.inMant
  wacc    : t.wacc = s.wacc
  wmask   : t.wmask = s.wmask
  wfail   : t.status.wfail = s.status.wfail
  sink    : t.sink = s.sink
  sunk    : t.sunk = s.sunk
  inputs  : t.inputs = s.inputs
  seen    : t.seen = s.seen
  draws   : t.draws = s.draws

theorem ReadingFrame.trans {s t u : State} (first : ReadingFrame s t) (second : ReadingFrame t u) :
    ReadingFrame s u where
  params := second.params.trans first.params
  fmtE := second.fmtE.trans first.fmtE
  fmtM := second.fmtM.trans first.fmtM
  fmtBias := second.fmtBias.trans first.fmtBias
  inKind := second.inKind.trans first.inKind
  inExp := second.inExp.trans first.inExp
  inMant := second.inMant.trans first.inMant
  wacc := second.wacc.trans first.wacc
  wmask := second.wmask.trans first.wmask
  wfail := second.wfail.trans first.wfail
  sink := second.sink.trans first.sink
  sunk := second.sunk.trans first.sunk
  inputs := second.inputs.trans first.inputs
  seen := second.seen.trans first.seen
  draws := second.draws.trans first.draws

theorem BitRead.readingFrame {s u : State} {b : Bool} (read : BitRead s b u) : ReadingFrame s u := by
  cases read <;> constructor <;> rfl

theorem SetUp.readingFrame {s u : State} (setUp : SetUp s u) (phase : s.phase = .dec ∨ s.phase = .rdb) :
    ReadingFrame s u := by
  cases setUp with
  | none | dec => constructor <;> rfl
  | enc _ enc => exact absurd phase (by simp [enc])

theorem Move.readingFrame {s t : State} (move : Move s t) (phase : s.phase = .dec ∨ s.phase = .rdb) :
    ReadingFrame s t := by
  cases move with
  | waits | refuses | asks | fetchFails => constructor <;> rfl
  | decGoesOn _ _ read | decEnds _ _ read | rdbEnds _ read => exact { read.readingFrame with }
  | sends _ writing | sendFails _ _ writing =>
    rcases writing with ⟨enc, _⟩ | wrb
    · exact absurd phase (by simp [enc])
    · exact absurd phase (by simp [wrb])
  | encGoesOn other | encEnds other | wrbEnds other => exact absurd phase (by simp [other])

/-! ## What `WRB` and `ENC` leave -/

/-- The operand and result registers, the reader, the source, the moves to come, the host's record and the parameters
are as they were. -/
structure WritingFrame (s t : State) : Prop where
  params  : t.params = s.params
  fmtE    : t.fmtE = s.fmtE
  fmtM    : t.fmtM = s.fmtM
  fmtBias : t.fmtBias = s.fmtBias
  inKind  : t.inKind = s.inKind
  inExp   : t.inExp = s.inExp
  inMant  : t.inMant = s.inMant
  outKind : t.outKind = s.outKind
  outExp  : t.outExp = s.outExp
  outMant : t.outMant = s.outMant
  rcur    : t.rcur = s.rcur
  rmask   : t.rmask = s.rmask
  rfail   : t.status.rfail = s.status.rfail
  rbit    : t.status.rbit = s.status.rbit
  source  : t.source = s.source
  drawn   : t.drawn = s.drawn
  inputs  : t.inputs = s.inputs
  seen    : t.seen = s.seen
  draws   : t.draws = s.draws

theorem WritingFrame.trans {s t u : State} (first : WritingFrame s t) (second : WritingFrame t u) :
    WritingFrame s u where
  params := second.params.trans first.params
  fmtE := second.fmtE.trans first.fmtE
  fmtM := second.fmtM.trans first.fmtM
  fmtBias := second.fmtBias.trans first.fmtBias
  inKind := second.inKind.trans first.inKind
  inExp := second.inExp.trans first.inExp
  inMant := second.inMant.trans first.inMant
  outKind := second.outKind.trans first.outKind
  outExp := second.outExp.trans first.outExp
  outMant := second.outMant.trans first.outMant
  rcur := second.rcur.trans first.rcur
  rmask := second.rmask.trans first.rmask
  rfail := second.rfail.trans first.rfail
  rbit := second.rbit.trans first.rbit
  source := second.source.trans first.source
  drawn := second.drawn.trans first.drawn
  inputs := second.inputs.trans first.inputs
  seen := second.seen.trans first.seen
  draws := second.draws.trans first.draws

theorem BitWritten.writingFrame {s u : State} {bit : Bool} (written : BitWritten bit s u) : WritingFrame s u := by
  cases written <;> constructor <;> rfl

theorem SetUp.writingFrame {s u : State} (setUp : SetUp s u) (phase : s.phase = .enc ∨ s.phase = .wrb) :
    WritingFrame s u := by
  cases setUp with
  | none | enc => constructor <;> rfl
  | dec dec => exact absurd phase (by simp [dec])

theorem Move.writingFrame {s t : State} (move : Move s t) (phase : s.phase = .enc ∨ s.phase = .wrb) :
    WritingFrame s t := by
  cases move with
  | waits | refuses | sends | sendFails => constructor <;> rfl
  | encGoesOn _ _ written | encEnds _ _ written | wrbEnds _ written => exact { written.writingFrame with }
  | asks reading | fetchFails _ reading =>
    rcases reading with ⟨dec, _⟩ | rdb
    · exact absurd phase (by simp [dec])
    · exact absurd phase (by simp [rdb])
  | decGoesOn other | decEnds other | rdbEnds other => exact absurd phase (by simp [other])

/-! ## What every move leaves (R45) -/

theorem Move.lat {s t : State} (move : Move s t) : t.lat = s.lat := by
  cases move with
  | waits | refuses | asks | fetchFails | sends | sendFails => rfl
  | decGoesOn _ _ read | decEnds _ _ read | rdbEnds _ read => exact read.lat
  | encGoesOn _ _ written | encEnds _ _ written | wrbEnds _ written => exact written.lat

/-- Only `DEC` puts a bit into `BUF`. -/
theorem Move.buf {s t : State} (move : Move s t) (phase : s.phase ≠ .dec) : t.buf = s.buf := by
  cases move with
  | waits | refuses | asks | fetchFails | sends | sendFails => rfl
  | rdbEnds _ read => exact read.buf
  | decGoesOn dec | decEnds dec => exact absurd dec phase
  | encGoesOn _ _ written | encEnds _ _ written | wrbEnds _ written => cases written <;> rfl

/-- The stream commands have no set-up. -/
theorem SetUp.eq_of_stream {s u : State} (setUp : SetUp s u) (phase : s.phase = .rdb ∨ s.phase = .wrb) : u = s := by
  cases setUp with
  | none => rfl
  | dec other | enc _ other => exact absurd phase (by simp [other])

/-- R46: a stream command leaves `K` and `BUF`. -/
theorem Runs.stream_keeps {s t : State} (runs : Runs s t) (phase : s.phase = .rdb ∨ s.phase = .wrb) :
    t.k = s.k ∧ t.buf = s.buf := by
  obtain ⟨u, setUp, move⟩ := runs
  obtain rfl := setUp.eq_of_stream phase
  constructor
  · rcases move.k with same | ⟨other, _⟩
    · exact same
    · rcases phase with phase | phase <;> simp [phase] at other
  · exact move.buf (by rcases phase with phase | phase <;> simp [phase])

theorem Runs.lat {s t : State} (runs : Runs s t) : t.lat = s.lat := by
  obtain ⟨u, setUp, move⟩ := runs
  have same : u.lat = s.lat := by cases setUp <;> rfl
  exact move.lat.trans same

/-! ## The obligations -/

theorem phaseOf_reading {i : Instr} (hi : i = .rdb ∨ i = .dec) : phaseOf i = .dec ∨ phaseOf i = .rdb := by
  rcases hi with rfl | rfl <;> simp [phaseOf]

theorem exec_readingFrame {i : Instr} {s t : State} (hi : i = .rdb ∨ i = .dec) (h : exec i s = .next t) :
    ReadingFrame s t := by
  rcases exec_cases h with ⟨_, rfl⟩ | ⟨_, rfl | ⟨_, phase, u, setUp, move⟩⟩
  · rcases hi with rfl | rfl <;> constructor <;> rfl
  · constructor <;> rfl
  · have reading := phase ▸ phaseOf_reading hi
    have same := setUp.keeps.1
    exact (setUp.readingFrame reading).trans (move.readingFrame (same ▸ reading))

/-- R45: while `BUSY = 1` no command latches. -/
theorem exec_lat {i : Instr} {s t : State} (h : exec i s = .next t) (busy : s.status.busy = true) : t.lat = s.lat := by
  rcases exec_cases h with ⟨idle, _⟩ | ⟨_, rfl | ⟨_, _, runs⟩⟩
  · exact nomatch idle.symm.trans busy
  · rfl
  · exact runs.lat

/-- R46: no step of `RDB` or `WRB` touches `K` or `BUF`. -/
theorem exec_stream_keeps {i : Instr} {s t : State} (hi : i = .rdb ∨ ∃ w, i = .wrb w) (h : exec i s = .next t) :
    t.k = s.k ∧ t.buf = s.buf := by
  rcases exec_cases h with ⟨_, rfl⟩ | ⟨_, rfl | ⟨_, phase, runs⟩⟩
  · rcases hi with rfl | ⟨w, rfl⟩ <;> exact ⟨rfl, rfl⟩
  · exact ⟨rfl, rfl⟩
  · rcases hi with rfl | ⟨w, rfl⟩
    · exact runs.stream_keeps (.inl phase)
    · exact runs.stream_keeps (.inr phase)

theorem exec_rdb_keeps_results {s t : State} (h : exec .rdb s = .next t) :
    t.outKind = s.outKind ∧ t.outExp = s.outExp ∧ t.outMant = s.outMant := by
  rcases exec_cases h with ⟨_, rfl⟩ | ⟨_, rfl | ⟨_, phase, u, setUp, move⟩⟩
  · exact ⟨rfl, rfl, rfl⟩
  · exact ⟨rfl, rfl, rfl⟩
  · obtain rfl := setUp.eq_of_stream (.inl phase)
    rcases move.results with same | ⟨dec, _⟩
    · exact same
    · exact nomatch phase.symm.trans dec

theorem exec_dec_keeps_rbit {s t : State} (h : exec .dec s = .next t) : t.status.rbit = s.status.rbit := by
  rcases exec_cases h with ⟨_, rfl⟩ | ⟨_, rfl | ⟨_, phase, u, setUp, move⟩⟩
  · rfl
  · rfl
  · obtain ⟨same, -, -, -, -, -, rbit, -⟩ := setUp.keeps
    rcases move.rbit with kept | ⟨rdb, _⟩
    · exact kept.trans rbit
    · exact nomatch (same.trans phase).symm.trans rdb

/-- Settles O57: the frame of each move of `RDB` and `DEC`, and what only the other of the two writes. -/
theorem readingCommandsFrame : Obligations.ReadingCommandsFrame := by
  intro s t i hi h
  obtain ⟨params, fmtE, fmtM, fmtBias, inKind, inExp, inMant, wacc, wmask, wfail, sink, sunk, inputs, seen, draws⟩ :=
    exec_readingFrame hi h
  refine ⟨params, fmtE, fmtM, fmtBias, inKind, inExp, inMant, wacc, wmask, wfail, sink, sunk, inputs, seen, draws,
    exec_lat h, ?rdb, ?dec⟩
  case rdb =>
    rintro rfl
    obtain ⟨k, buf⟩ := exec_stream_keeps (.inl rfl) h
    exact ⟨k, buf, exec_rdb_keeps_results h⟩
  case dec =>
    rintro rfl
    exact exec_dec_keeps_rbit h

theorem phaseOf_writing {i : Instr} (hi : i = .enc ∨ ∃ w, i = .wrb w) : phaseOf i = .enc ∨ phaseOf i = .wrb := by
  rcases hi with rfl | ⟨w, rfl⟩ <;> simp [phaseOf]

theorem exec_writingFrame {i : Instr} {s t : State} (hi : i = .enc ∨ ∃ w, i = .wrb w) (h : exec i s = .next t) :
    WritingFrame s t := by
  rcases exec_cases h with ⟨_, rfl⟩ | ⟨_, rfl | ⟨_, phase, u, setUp, move⟩⟩
  · rcases hi with rfl | ⟨w, rfl⟩ <;> constructor <;> rfl
  · constructor <;> rfl
  · have writing := phase ▸ phaseOf_writing hi
    have same := setUp.keeps.1
    exact (setUp.writingFrame writing).trans (move.writingFrame (same ▸ writing))

/-- Settles O58: the frame of each move of `WRB` and `ENC`; `WRB` has neither `K` nor `BUF`. -/
theorem writingCommandsFrame : Obligations.WritingCommandsFrame := by
  intro s t i hi h
  obtain ⟨params, fmtE, fmtM, fmtBias, inKind, inExp, inMant, outKind, outExp, outMant, rcur, rmask, rfail, rbit,
    source, drawn, inputs, seen, draws⟩ := exec_writingFrame hi h
  refine ⟨params, fmtE, fmtM, fmtBias, inKind, inExp, inMant, outKind, outExp, outMant, rcur, rmask, rfail, rbit,
    source, drawn, inputs, seen, draws, exec_lat h, fun notEnc => ?_⟩
  exact exec_stream_keeps (.inr (hi.resolve_left notEnc)) h

/-! ## Reset (R211) -/

/-- R211: the collaborator may take the pending byte, or give up the one it was asked for. -/
theorem carryOutPending_moves (s : State) :
    ((carryOutPending s).sunk = s.sunk ∨ ∃ b, s.pend = .snk b ∧ (carryOutPending s).sunk = s.sunk ++ [b]) ∧
    ((carryOutPending s).drawn = s.drawn ∨
      ∃ b more, s.pend = .src ∧ s.source = .ok b :: more ∧ (carryOutPending s).drawn = s.drawn ++ [b]) := by
  unfold carryOutPending
  split
  · exact ⟨.inl rfl, .inl rfl⟩
  next asked =>
    split
    · exact ⟨.inl rfl, .inl rfl⟩
    · exact ⟨.inl rfl, .inl rfl⟩
    next b more answer => exact ⟨.inl rfl, .inr ⟨b, more, asked, answer, rfl⟩⟩
  next b sent =>
    split
    · exact ⟨.inl rfl, .inl rfl⟩
    · exact ⟨.inl rfl, .inl rfl⟩
    · exact ⟨.inr ⟨b, sent, rfl⟩, .inl rfl⟩

/-- Settles O52: the block is at its reset values whatever the collaborator does, and it moves the pending byte at
most. -/
theorem resetAbandonsTheCommand : Obligations.ResetAbandonsTheCommand := by
  intro s t c rest hi h
  cases (step_reset hi).symm.trans h
  have moves := carryOutPending_moves { s with inputs := rest }
  refine ⟨statusWord_atReset, rfl, rfl, ?_⟩
  cases c with
  | false => exact ⟨.inl rfl, .inl rfl⟩
  | true => exact moves

end Sys2Proof.Machine
end

section
/-!
PROOFS. The steps of the machine as equations: acceptance and the block's own move (R90, R222), the errors that end
`ENC` and `DEC` before anything is touched (R182 to R188), and the steps of the two (R143, R162).
-/
namespace Sys2Proof.Machine

/-! ## The command a step runs -/

theorem step_command {s : State} {v : Int} {rest : List Input} {i : Instr} (hi : s.inputs = .write 0x0 v :: rest)
    (idle : s.status.busy = false) (command : decode (BitVec.ofInt 8 v) = .ok i) :
    step s = exec i { s with inputs := rest } := by
  rw [step_write_ctrl hi]
  simp [writeCtrl, idle, command]

theorem step_own {s : State} {i : Instr} (hi : s.inputs = []) (busy : s.status.busy = true)
    (running : runningCommand s = some i) : step s = exec i s := by
  rw [step, hi]
  exact blockStep_running busy running

/-- R95: while `BUSY = 1` a `WAIT` lets the block move. -/
theorem step_wait_running {s : State} {i : Instr} {rest : List Input} (hi : s.inputs = .wait :: rest)
    (busy : s.status.busy = true) (running : runningCommand s = some i) : step s = exec i s := by
  rw [step, hi]
  exact (if_pos busy).trans (blockStep_running busy running)

theorem step_wait_idle {s : State} {rest : List Input} (hi : s.inputs = .wait :: rest) (idle : s.status.busy = false) :
    step s = .next { s with inputs := rest } := by
  rw [step, hi]
  exact if_neg (by simp [idle])

/-- Settles O5: a `CTRL` write goes to the decoder, and the block's own move to the command of its phase. -/
theorem stepRunsTheDecodedCommand : Obligations.StepRunsTheDecodedCommand := by
  refine ⟨fun s v rest i hi idle command _ => step_command hi idle command,
    fun s i hi busy running => step_own hi busy running, ?ownMove, ?idle⟩
  case ownMove =>
    intro s i rest hi busy running
    rw [step, hi]
    exact blockStep_running (s := { s with inputs := rest }) busy running
  case idle =>
    intro s hi idle
    rw [step, hi]
    exact blockStep_of_idle idle

/-- Settles O6: while idle, the step of each command is its acceptance. -/
theorem acceptanceEntersThePhase : Obligations.AcceptanceEntersThePhase :=
  fun _ w idle => ⟨exec_of_not_busy idle .enc, exec_of_not_busy idle .dec, exec_of_not_busy idle .rdb,
    exec_of_not_busy idle (.wrb w)⟩

/-! ## The checks (R131, R133, R140, R161) -/

theorem checkFormat_eq_none_iff (p : Params) (d : Descriptor) :
    checkFormat p d = none ↔ (1 + d.e + d.m) % 8 = 0 ∧ d.e ≤ p.eMax ∧ d.m ≤ p.mMax := by
  refine ⟨checkFormat_none, fun ⟨whole, widthE, widthM⟩ => ?_⟩
  have whole : d.n % 8 = 0 := whole
  rw [checkFormat, if_neg (by omega), if_neg (by omega)]

theorem checkFormat_invalid {p : Params} {d : Descriptor} (h : (1 + d.e + d.m) % 8 ≠ 0) :
    checkFormat p d = some .invalidFormat :=
  if_pos h

theorem checkFormat_unsupported {p : Params} {d : Descriptor} (whole : (1 + d.e + d.m) % 8 = 0)
    (wide : p.eMax < d.e ∨ p.mMax < d.m) : checkFormat p d = some .formatUnsupported :=
  (if_neg (not_not.mpr whole)).trans (if_pos wide)

theorem encPrepare_of_checkFormat {p : Params} {l : Latched} {e : ErrorKind} (h : checkFormat p l.descriptor = some e) :
    encPrepare p l = .error e := by
  simp only [encPrepare, h]

theorem encPrepare_ok_iff (p : Params) (l : Latched) (bits : List Bool) :
    encPrepare p l = .ok bits ↔ checkFormat p l.descriptor = none ∧ ¬(l.tag = 3 ∧ l.mant = 0) ∧
      encodeBits l.number l.descriptor = some bits := by
  refine ⟨encPrepare_ok, fun ⟨format, operand, encoded⟩ => ?_⟩
  simp only [encPrepare, format, if_neg operand, encoded]

theorem encPrepare_invalidOperand {p : Params} {l : Latched} (format : checkFormat p l.descriptor = none)
    (operand : l.tag = 3 ∧ l.mant = 0) : encPrepare p l = .error .invalidOperand := by
  simp only [encPrepare, format, if_pos operand]

theorem encPrepare_overflow {p : Params} {l : Latched} (format : checkFormat p l.descriptor = none)
    (operand : ¬(l.tag = 3 ∧ l.mant = 0)) (overflow : encodeBits l.number l.descriptor = none) :
    encPrepare p l = .error .exponentOverflow := by
  simp only [encPrepare, format, if_neg operand, overflow]

/-! ## The steps of `ENC` and `DEC`, by what they find -/

theorem exec_enc_open {s : State} (busy : s.status.busy = true) (phase : s.phase = .enc) (closed : s.opened = false) :
    exec .enc s = encOpen s := by
  rw [exec, execEnc_running busy phase, if_neg (by simp [closed])]

theorem exec_dec_open {s : State} (busy : s.status.busy = true) (phase : s.phase = .dec) (closed : s.opened = false) :
    exec .dec s = decOpen s := by
  rw [exec, execDec_running busy phase, if_neg (by simp [closed])]

theorem exec_enc_bit {s : State} (busy : s.status.busy = true) (phase : s.phase = .enc) (opened : s.opened = true) :
    exec .enc s = encWrite s := by
  rw [exec, execEnc_running busy phase, if_pos opened]

theorem exec_dec_bit {s : State} (busy : s.status.busy = true) (phase : s.phase = .dec) (opened : s.opened = true) :
    exec .dec s = decRead s := by
  rw [exec, execDec_running busy phase, if_pos opened]

theorem encOpen_error {s : State} {e : ErrorKind} (h : encPrepare s.params s.lat = .error e) :
    encOpen s = .next (raise e s) := by
  simp only [encOpen, h]

theorem encOpen_ok {s : State} {bits : List Bool} (h : encPrepare s.params s.lat = .ok bits) :
    encOpen s = encWrite (encReady bits s) := by
  simp only [encOpen, h, encReady]

theorem decOpen_error {s : State} {e : ErrorKind} (h : checkFormat s.params s.lat.descriptor = some e) :
    decOpen s = .next (raise e s) := by
  simp only [decOpen, h]

theorem decOpen_ok {s : State} (h : checkFormat s.params s.lat.descriptor = none) :
    decOpen s = decRead (decReady s) := by
  simp only [decOpen, h, decReady]

theorem encAdvance_more {s : State} (more : s.k + 1 < s.lat.descriptor.n) :
    encAdvance s = .next { s with k := s.k + 1 } :=
  if_pos more

theorem encAdvance_last {s : State} (last : s.k + 1 = s.lat.descriptor.n) :
    encAdvance s = .next (complete { s with k := s.lat.descriptor.n }) := by
  rw [encAdvance, last, if_neg (lt_irrefl _)]

theorem decAdvance_more {b : Bool} {s : State} (more : s.k + 1 < s.lat.descriptor.n) :
    decAdvance b s = .next { s with buf := s.buf ++ [b], k := s.k + 1 } :=
  if_pos more

/-! ## Errors before anything is touched -/

/-- R182, R186: whichever of `ENC` and `DEC` runs, a descriptor that fails a check ends it. -/
theorem exec_formatError {s : State} {i : Instr} {e : ErrorKind} (busy : s.status.busy = true)
    (closed : s.opened = false) (phase : s.phase = .enc ∨ s.phase = .dec) (running : runningCommand s = some i)
    (format : checkFormat s.params s.lat.descriptor = some e) : exec i s = .next (raise e s) := by
  rcases phase with phase | phase
  · obtain rfl : Instr.enc = i := by simpa [runningCommand, phase] using running
    rw [exec_enc_open busy phase closed, encOpen_error (encPrepare_of_checkFormat format)]
  · obtain rfl : Instr.dec = i := by simpa [runningCommand, phase] using running
    rw [exec_dec_open busy phase closed, decOpen_error format]

/-- Settles O20: the first step of either command raises the error of the check that fails. -/
theorem formatErrorsTouchNothing : Obligations.FormatErrorsTouchNothing := by
  refine ⟨fun s busy closed phase => ⟨?invalid, ?unsupported⟩, fun l => ⟨?e, ?m⟩⟩
  case invalid => exact fun odd i running => exec_formatError busy closed phase running (checkFormat_invalid odd)
  case unsupported =>
    exact fun whole wide i running => exec_formatError busy closed phase running (checkFormat_unsupported whole wide)
  case e => exact Nat.le_sub_one_of_lt l.e.isLt
  case m => exact Nat.le_sub_one_of_lt l.m.isLt

/-- Settles O21: the checks of the operand stand before `EncodeBits`, and both before the first bit. -/
theorem operandErrorsTouchNothing : Obligations.OperandErrorsTouchNothing := by
  intro s busy phase closed whole widthE widthM tag
  have format := (checkFormat_eq_none_iff s.params s.lat.descriptor).mpr ⟨whole, widthE, widthM⟩
  have first := exec_enc_open busy phase closed
  constructor
  · intro zero
    rw [first, encOpen_error (encPrepare_invalidOperand format ⟨tag, zero⟩)]
    rfl
  · intro positive one_le top
    have number := (latched_number s.lat).2.2.2 tag
    have biased : biasedExponent s.lat.exp s.lat.mant s.lat.descriptor =
        s.lat.exp + s.lat.bias + s.lat.mant.log2 := by
      rw [biasedExponent, significandLength_eq_log2 positive]
      rfl
    have overflow : encodeBits s.lat.number s.lat.descriptor = none := by
      rw [number]
      exact encodeBits_overflow (biased ▸ one_le) (by rw [biased, allOnes_cast]; exact top) _
    rw [first, encOpen_error (encPrepare_overflow format (by omega) overflow)]
    rfl

/-! ## The obligations on the steps -/

/-- R143: the first step of an `ENC` writes bit 0. -/
theorem exec_enc_first {s : State} {bits : List Bool} (busy : s.status.busy = true) (phase : s.phase = .enc)
    (closed : s.opened = false) (quiet : s.pend = .none) (prepared : encPrepare s.params s.lat = .ok bits) :
    exec .enc s = .next { s with
      status := { s.status with wfail := false }, opened := true, buf := bits, k := 1
      wacc := if bits.headD false then 0x80 else 0x00, wmask := 0x40 } := by
  have more : 0 + 1 < s.lat.descriptor.n := by
    have := eight_le_of_checkFormat (encPrepare_ok prepared).1
    omega
  have bit : accumulate (bits.getD 0 false) (encReady bits s) = if bits.headD false then 0x80 else 0x00 := by
    have set : (0x00 : Byte) ||| 0x80 = 0x80 := by decide
    cases bits with
    | nil => rfl
    | cons b _ => cases b <;> [rfl; exact set]
  have mask : (encReady bits s).wmask >>> 1 = 0x40 := (by decide : (0x80 : Byte) >>> 1 = 0x40)
  calc exec .enc s
    _ = encWrite (encReady bits s) := (exec_enc_open busy phase closed).trans (encOpen_ok prepared)
    _ = encAdvance { encReady bits s with
          wacc := accumulate (bits.getD 0 false) (encReady bits s), wmask := (encReady bits s).wmask >>> 1 } :=
      writeBit_store quiet (by rw [mask]; decide)
    _ = .next _ := encAdvance_more more
    _ = _ := by rw [bit, mask]; rfl

/-- Settles O22: the checks in order, and each step by the branch of `writeBit` it takes. -/
theorem encSteps : Obligations.EncSteps := by
  refine ⟨fun p l bits => ?checks, fun s busy phase => ⟨?first, ?store, ?send, ?taken, ?last⟩⟩
  case checks =>
    rw [encPrepare_ok_iff, checkFormat_eq_none_iff]
    exact ⟨fun ⟨⟨whole, widthE, widthM⟩, rest⟩ => ⟨whole, widthE, widthM, rest⟩,
      fun ⟨whole, widthE, widthM, rest⟩ => ⟨⟨whole, widthE, widthM⟩, rest⟩⟩
  case first => exact fun bits closed quiet prepared => exec_enc_first busy phase closed quiet prepared
  case store =>
    intro opened quiet room more
    rw [exec_enc_bit busy phase opened, encWrite, writeBit_store quiet room]
    exact encAdvance_more more
  case send =>
    intro opened quiet last
    rw [exec_enc_bit busy phase opened, encWrite, writeBit_send quiet last]
    rfl
  case taken =>
    intro b rest opened sent answer more
    rw [exec_enc_bit busy phase opened, encWrite, writeBit_taken sent answer]
    exact encAdvance_more more
  case last =>
    intro b rest opened sent answer last
    rw [exec_enc_bit busy phase opened, encWrite, writeBit_taken sent answer]
    exact encAdvance_last last

/-- Settles O32: the checks in order, and each step by the branch of `readBit` it takes. -/
theorem decSteps : Obligations.DecSteps := by
  refine ⟨checkFormat_eq_none_iff, fun s busy phase => ⟨?first, ?inHand, ?ask, ?answered⟩⟩
  case first =>
    intro closed quiet format
    rw [exec_dec_open busy phase closed, decOpen_ok format, decRead,
      readBit_request (s := decReady s) quiet rfl]
    rfl
  case inHand =>
    intro opened quiet left more
    rw [exec_dec_deliver busy phase opened quiet left]
    exact decAdvance_more more
  case ask =>
    intro opened quiet empty
    rw [exec_dec_bit busy phase opened, decRead, readBit_request quiet empty]
  case answered =>
    intro b rest opened asked answer more
    rw [exec_dec_bit busy phase opened, decRead, readBit_answered asked answer]
    exact decAdvance_more more

end Sys2Proof.Machine
end

section
/-!
PROOFS. A whole `ENC` and a whole `DEC` (R143, R144, R162, R170), from the `CTRL` write to the end: the state after each
bit is written out, a bit costs one step, and a byte one more.
-/
namespace Sys2Proof.Machine

/-! ## Running on -/

theorem runSteps_one (s : State) : runSteps 1 s = step s := by
  rw [runSteps_succ]
  cases step s <;> rfl

theorem runSteps_next {a b : Nat} {s t : State} (first : runSteps a s = .next t) :
    runSteps (a + b) s = runSteps b t := by
  rw [runSteps_add, first, andThen_next]

/-- States with the same next step have the same runs. -/
theorem runSteps_congr {n : Nat} {s t : State} (positive : 0 < n) (h : step s = step t) :
    runSteps n s = runSteps n t := by
  obtain ⟨n, rfl⟩ := Nat.exists_eq_add_of_le' positive
  rw [runSteps_succ, runSteps_succ, h]

theorem drop_eq_cons {α : Type} {l : List α} {j : Nat} {a : α} (h : l[j]? = some a) :
    l.drop j = a :: l.drop (j + 1) := by
  rw [List.drop_eq_getElem?_toList_append, h]
  rfl

/-! ## The states of a running `ENC` -/

/-- An `ENC` accepted in `s`, with nothing more to come from the host, after `k` bits of `bits`. -/
def encAt (s : State) (bits : List Bool) (k : Nat) : State :=
  { s with
    inputs := [], status := { s.status with busy := true, done := false, err := 0, wfail := false }
    lat := latchOperands false s, phase := .enc, opened := true, pend := .none, buf := bits, k := k
    wmask := (0x80 : Byte) >>> (k % 8), wacc := byteOfBits ((bits.take k).drop (8 * (k / 8)))
    sunk := s.sunk ++ packBytes (k / 8) bits, sink := s.sink.drop (k / 8) }

theorem encAt_sentUpTo (s : State) (bits : List Bool) (k : Nat) : SentUpTo bits k (encAt s bits k) :=
  ⟨rfl, ⟨s.sunk, rfl⟩, rfl, rfl⟩

theorem step_encAt (s : State) (bits : List Bool) (k : Nat) : step (encAt s bits k) = encWrite (encAt s bits k) :=
  (step_own rfl rfl rfl).trans (exec_enc_bit rfl rfl rfl)

/-- R143: a bit that does not complete a byte. -/
theorem encAt_store {s : State} {bits : List Bool} {k : Nat} (hk : k < bits.length) (inByte : k % 8 ≠ 7) :
    runSteps 1 (encAt s bits k) = encAdvance { encAt s bits (k + 1) with k := k } := by
  have room : k % 8 < 8 := Nat.mod_lt _ (by decide)
  have more : (encAt s bits k).wmask >>> 1 ≠ 0x00 := mt (mask_leaves_iff _ room).mp inByte
  have next := (encAt_sentUpTo s bits k).stored hk more
  have mask : (encAt s bits k).wmask >>> 1 = (0x80 : Byte) >>> ((k + 1) % 8) := next.mask
  have part : accumulate (bits.getD k false) (encAt s bits k) =
      byteOfBits ((bits.take (k + 1)).drop (8 * ((k + 1) / 8))) := next.part
  have sameByte : (k + 1) / 8 = k / 8 := by omega
  calc runSteps 1 (encAt s bits k)
    _ = encWrite (encAt s bits k) := (runSteps_one _).trans (step_encAt s bits k)
    _ = encAdvance { encAt s bits k with
          wacc := accumulate (bits.getD k false) (encAt s bits k), wmask := (encAt s bits k).wmask >>> 1 } :=
      writeBit_store rfl more
    _ = _ := by rw [mask, part, sameByte]; simp only [encAt, sameByte]

/-- The `ENC` whose `k`-th bit has completed a byte, which the sink has yet to take. -/
def encSending (s : State) (bits : List Bool) (k : Nat) : State :=
  { encAt s bits k with wacc := 0x00, wmask := 0x80, pend := .snk (byteOfBits (bits.drop (8 * (k / 8)))) }

/-- R143: the bit that completes a byte sends it. -/
theorem step_encAt_send {s : State} {bits : List Bool} {k : Nat} (hk : k < bits.length) (last : k % 8 = 7) :
    step (encAt s bits k) = .next (encSending s bits k) := by
  have room : k % 8 < 8 := Nat.mod_lt _ (by decide)
  have leaves : (encAt s bits k).wmask >>> 1 = 0x00 := (mask_leaves_iff _ room).mpr last
  have byte : accumulate (bits.getD k false) (encAt s bits k) = byteOfBits (bits.drop (8 * (k / 8))) :=
    (accumulate_next (encAt_sentUpTo s bits k) hk).trans (byteOfBits_complete last)
  rw [step_encAt, encSending, ← byte]
  exact writeBit_send rfl leaves

/-- With the byte taken, bit `k` is written. -/
theorem sinkAnswered_encSending {s : State} {bits : List Bool} {k : Nat} (last : k % 8 = 7) :
    sinkAnswered (byteOfBits (bits.drop (8 * (k / 8)))) (s.sink.drop (k / 8 + 1)) (encSending s bits k) =
      { encAt s bits (k + 1) with k := k } := by
  have nextByte : (k + 1) / 8 = k / 8 + 1 := by omega
  obtain ⟨wacc, wmask⟩ := (encAt_sentUpTo s bits (k + 1)).at_boundary (by omega)
  simp only [encAt, nextByte] at wacc wmask
  simp only [sinkAnswered, encSending, encAt, nextByte, wacc, wmask, packBytes_succ, List.append_assoc]

/-- R143, R144: the bit that completes a byte costs two steps, with a sink that takes the byte. -/
theorem encAt_send {s : State} {bits : List Bool} {k : Nat} (hk : k < bits.length) (last : k % 8 = 7)
    (answer : s.sink[k / 8]? = some .ok) :
    runSteps 2 (encAt s bits k) = encAdvance { encAt s bits (k + 1) with k := k } := by
  have waiting : (encSending s bits k).sink = .ok :: s.sink.drop (k / 8 + 1) := drop_eq_cons answer
  calc runSteps (1 + 1) (encAt s bits k)
    _ = runSteps 1 (encSending s bits k) := runSteps_next ((runSteps_one _).trans (step_encAt_send hk last))
    _ = encWrite (encSending s bits k) :=
      (runSteps_one _).trans ((step_own rfl rfl rfl).trans (exec_enc_bit rfl rfl rfl))
    _ = encAdvance (sinkAnswered _ _ (encSending s bits k)) := writeBit_taken rfl waiting
    _ = _ := by rw [sinkAnswered_encSending last]

/-- The steps that the first `k` bits of a stream of bytes cost, an answer for each whole byte. -/
theorem encAt_run {s : State} {bits : List Bool} (length : bits.length = (latchOperands false s).descriptor.n)
    (answers : ∀ j < bits.length / 8, s.sink[j]? = some .ok) {k : Nat} (hk : k < bits.length) :
    runSteps (k + k / 8) (encAt s bits 0) = .next (encAt s bits k) := by
  induction k with
  | zero => rfl
  | succ k ih =>
    have before := ih (by omega)
    have more : encAdvance { encAt s bits (k + 1) with k := k } = .next (encAt s bits (k + 1)) :=
      encAdvance_more (length ▸ hk)
    by_cases last : k % 8 = 7
    · have steps : k + 1 + (k + 1) / 8 = k + k / 8 + 2 := by omega
      rw [steps, runSteps_next before, encAt_send (by omega) last (answers _ (by omega)), more]
    · have steps : k + 1 + (k + 1) / 8 = k + k / 8 + 1 := by omega
      rw [steps, runSteps_next before, encAt_store (by omega) last, more]

/-- R143, R144: all the bits, and the end of the command. -/
theorem encAt_run_all {s : State} {bits : List Bool} (length : bits.length = (latchOperands false s).descriptor.n)
    (whole : bits.length % 8 = 0) (positive : 0 < bits.length)
    (answers : ∀ j < bits.length / 8, s.sink[j]? = some .ok) :
    runSteps (bits.length + bits.length / 8) (encAt s bits 0) = .next (complete (encAt s bits bits.length)) := by
  obtain ⟨k, hk⟩ := Nat.exists_eq_add_of_le' positive
  have steps : bits.length + bits.length / 8 = k + k / 8 + 2 := by omega
  have ended : encAdvance { encAt s bits (k + 1) with k := k } = .next (complete (encAt s bits (k + 1))) := by
    refine (encAdvance_last (hk.symm.trans length)).trans ?_
    rw [show (encAt s bits (k + 1)).lat.descriptor.n = k + 1 from length.symm.trans hk]
    rfl
  rw [steps, runSteps_next (encAt_run length answers (by omega)),
    encAt_send (by omega) (by omega) (answers _ (by omega)), ended, ← hk]

/-- R90, R130: after its acceptance an `ENC` does what it does set up, before its first bit. -/
theorem step_enc_accepted {s : State} {bits : List Bool} (quiet : s.pend = .none)
    (prepared : encPrepare s.params (latchOperands false s) = .ok bits) :
    step (accept .enc false { s with inputs := [] }) = step (encAt s bits 0) := by
  have ready : encReady bits (accept .enc false { s with inputs := [] }) = encAt s bits 0 := by
    simp [encReady, writerInit, accept, latchOperands, encAt, quiet, byteOfBits_nil]
  rw [step_encAt, ← ready]
  exact (step_own rfl rfl rfl).trans ((exec_enc_open rfl rfl rfl).trans (encOpen_ok prepared))

/-- Settles O23: acceptance, `N` bits at a step each, and an answer for each of the `N / 8` bytes. -/
theorem encRunSendsTheEncoding : Obligations.EncRunSendsTheEncoding := by
  intro s bits rest idle quiet hi prepared sink
  obtain ⟨format, -, encoded⟩ := encPrepare_ok prepared
  have length := encodeBits_length encoded
  obtain ⟨whole, -⟩ := checkFormat_none format
  have positive := eight_le_of_checkFormat format
  have accepts : step s = .next (accept .enc false { s with inputs := [] }) :=
    (step_command hi idle rfl).trans (exec_of_not_busy (s := { s with inputs := [] }) idle .enc)
  have answers : ∀ j < bits.length / 8, s.sink[j]? = some .ok := fun j hj => by
    rw [sink, List.getElem?_append_left (by simpa using hj), List.getElem?_replicate, if_pos hj]
  have all := encAt_run_all length (by omega) (by omega) answers
  obtain ⟨wacc, wmask⟩ := (encAt_sentUpTo s bits bits.length).at_boundary (by omega)
  have left : s.sink.drop (bits.length / 8) = rest := by rw [sink]; exact List.drop_left' (by simp)
  rw [Nat.add_assoc, runSteps_next ((runSteps_one s).trans accepts),
    runSteps_congr (by omega) (step_enc_accepted quiet prepared), all]
  simp only [encAt] at wacc wmask
  simp only [encAt, complete, endCommand, wacc, wmask, left, quiet]

/-! ## The states of a running `DEC` -/

/-- A `DEC` accepted in `s`, with nothing more to come from the host, after `k` bits of `bytes`. -/
def decAt (s : State) (bytes : List Byte) (k : Nat) : State :=
  { s with
    inputs := [], status := { s.status with busy := true, done := false, err := 0, rfail := false }
    lat := latchOperands false s, phase := .dec, opened := true, pend := .none
    buf := (bitsOfBytes bytes).take k, k := k, rcur := (bytes.take ((k + 7) / 8)).getLastD 0x00
    rmask := if k % 8 = 0 then 0x00 else (0x80 : Byte) >>> (k % 8)
    drawn := s.drawn ++ bytes.take ((k + 7) / 8), source := s.source.drop ((k + 7) / 8) }

theorem step_decAt (s : State) (bytes : List Byte) (k : Nat) : step (decAt s bytes k) = decRead (decAt s bytes k) :=
  (step_own rfl rfl rfl).trans (exec_dec_bit rfl rfl rfl)

theorem take_succ_getLastD {α : Type} {l : List α} {j : Nat} {a : α} (h : l[j]? = some a) (default : α) :
    l.take (j + 1) = l.take j ++ [a] ∧ (l.take (j + 1)).getLastD default = a := by
  have grows : l.take (j + 1) = l.take j ++ [a] := by
    rw [List.take_add_one, h]
    rfl
  exact ⟨grows, by rw [grows]; simp⟩

/-- The `DEC` that has the bit after bit `k - 1`, and has yet to put it into `BUF`. -/
def decDelivered (s : State) (bytes : List Byte) (k : Nat) : State :=
  { decAt s bytes (k + 1) with buf := (bitsOfBytes bytes).take k, k := k }

/-- R110, R162: a bit of the byte in hand costs one step. -/
theorem decAt_inHand {s : State} {bytes : List Byte} {k : Nat} {b : Byte} (byte : bytes[k / 8]? = some b)
    (inByte : k % 8 ≠ 0) :
    runSteps 1 (decAt s bytes k) = decAdvance (b.getLsbD (7 - k % 8)) (decDelivered s bytes k) := by
  have room : k % 8 < 8 := Nat.mod_lt _ (by decide)
  have fetched : (k + 7) / 8 = k / 8 + 1 := by omega
  have sameBytes : (k + 1 + 7) / 8 = k / 8 + 1 := by omega
  have nextBit : (k + 1) % 8 = (k % 8 + 1) % 8 := by omega
  have mask : (decAt s bytes k).rmask = (0x80 : Byte) >>> (k % 8) := if_neg inByte
  have left : (decAt s bytes k).rmask ≠ 0x00 := by
    rw [mask, mask_eq_twoPow _ room]
    exact twoPow_ne_zero (by omega)
  have moved : (decAt s bytes k).rmask >>> 1 = if (k + 1) % 8 = 0 then 0x00 else (0x80 : Byte) >>> ((k + 1) % 8) := by
    rw [nextBit, ← read_mask_next _ room inByte, mask]
  have bit : ((decAt s bytes k).rcur &&& (decAt s bytes k).rmask != 0) = b.getLsbD (7 - k % 8) := by
    have inHand : (decAt s bytes k).rcur = b := by
      show (bytes.take ((k + 7) / 8)).getLastD 0x00 = b
      rw [fetched]
      exact (take_succ_getLastD byte _).2
    rw [inHand, mask, mask_eq_twoPow _ room]
    exact and_twoPow_bne_zero _ (by omega)
  calc runSteps 1 (decAt s bytes k)
    _ = decRead (decAt s bytes k) := (runSteps_one _).trans (step_decAt s bytes k)
    _ = decAdvance _ { decAt s bytes k with rmask := (decAt s bytes k).rmask >>> 1 } := readBit_deliver rfl left
    _ = _ := by
      rw [moved, bit]
      simp only [decDelivered, decAt, fetched, sameBytes]

/-- With a byte just answered, its bit 7 is delivered. -/
theorem sourceAnswered_decAt {s : State} {bytes : List Byte} {k : Nat} {b : Byte} (byte : bytes[k / 8]? = some b)
    (boundary : k % 8 = 0) :
    { sourceAnswered b (s.source.drop (k / 8 + 1)) { decAt s bytes k with pend := .src } with
      rmask := BitVec.twoPow 8 6 } = decDelivered s bytes k := by
  have none : (k + 7) / 8 = k / 8 := by omega
  have one : (k + 1 + 7) / 8 = k / 8 + 1 := by omega
  have nextBit : (k + 1) % 8 = 1 := by omega
  have mask : BitVec.twoPow 8 6 = (0x80 : Byte) >>> 1 := by decide
  obtain ⟨grows, -⟩ := take_succ_getLastD byte 0x00
  simp only [sourceAnswered, decDelivered, decAt, none, one, nextBit, mask, grows, List.append_assoc,
    List.getLastD_concat, one_ne_zero, if_false]

/-- R61, R110, R162: the first bit of a byte costs two steps, with a source that delivers. -/
theorem decAt_fetch {s : State} {bytes : List Byte} {k : Nat} {b : Byte} (byte : bytes[k / 8]? = some b)
    (boundary : k % 8 = 0) (answer : s.source[k / 8]? = some (.ok b)) :
    runSteps 2 (decAt s bytes k) = decAdvance (b.getLsbD (7 - k % 8)) (decDelivered s bytes k) := by
  have fetched : (k + 7) / 8 = k / 8 := by omega
  have asks : step (decAt s bytes k) = .next { decAt s bytes k with pend := .src } :=
    (step_decAt s bytes k).trans (readBit_request rfl (if_pos boundary))
  have waiting : (decAt s bytes k).source = .ok b :: s.source.drop (k / 8 + 1) := by
    show s.source.drop ((k + 7) / 8) = _
    rw [fetched]
    exact drop_eq_cons answer
  calc runSteps (1 + 1) (decAt s bytes k)
    _ = runSteps 1 { decAt s bytes k with pend := .src } := runSteps_next ((runSteps_one _).trans asks)
    _ = decRead { decAt s bytes k with pend := .src } :=
      (runSteps_one _).trans ((step_own rfl rfl rfl).trans (exec_dec_bit rfl rfl rfl))
    _ = decAdvance (b.getLsbD 7) _ := readBit_answered rfl waiting
    _ = _ := by rw [sourceAnswered_decAt byte boundary, boundary]

/-- R162: the steps of bit `k`: one, and one more where it needs a byte. -/
theorem decAt_bit {s : State} {bytes : List Byte} {k : Nat} {b : Byte} (byte : bytes[k / 8]? = some b)
    (answer : s.source[k / 8]? = some (.ok b)) :
    runSteps (1 + ((k + 1 + 7) / 8 - (k + 7) / 8)) (decAt s bytes k) =
      decAdvance (b.getLsbD (7 - k % 8)) (decDelivered s bytes k) := by
  by_cases boundary : k % 8 = 0
  · have steps : 1 + ((k + 1 + 7) / 8 - (k + 7) / 8) = 2 := by omega
    rw [steps, decAt_fetch byte boundary answer]
  · have steps : 1 + ((k + 1 + 7) / 8 - (k + 7) / 8) = 1 := by omega
    rw [steps, decAt_inHand byte boundary]

/-- The bit delivered goes to the end of `BUF`, where it is the next bit of the bytes. -/
theorem decDelivered_next {s : State} {bytes : List Byte} {k : Nat} {b : Byte} (byte : bytes[k / 8]? = some b) :
    { decDelivered s bytes k with
      buf := (decDelivered s bytes k).buf ++ [b.getLsbD (7 - k % 8)], k := k + 1 } = decAt s bytes (k + 1) := by
  simp only [decDelivered, decAt, take_succ_bitsOfBytes byte]

/-- The source's next answers are these bytes. -/
def SourceDelivers (s : State) (bytes : List Byte) : Prop :=
  ∀ (j : Nat) (b : Byte), bytes[j]? = some b → s.source[j]? = some (SrcAnswer.ok b)

/-- The steps that the first `k` bits of a stream of bytes cost, an answer for each byte begun. -/
theorem decAt_run {s : State} {bytes : List Byte} (length : 8 * bytes.length = (latchOperands false s).descriptor.n)
    (answers : SourceDelivers s bytes) {k : Nat} (hk : k < 8 * bytes.length) :
    runSteps (k + (k + 7) / 8) (decAt s bytes 0) = .next (decAt s bytes k) := by
  induction k with
  | zero => rfl
  | succ k ih =>
    have byte := List.getElem?_eq_getElem (show k / 8 < bytes.length by omega)
    have more : decAdvance ((bytes[k / 8]).getLsbD (7 - k % 8)) (decDelivered s bytes k) =
        .next (decAt s bytes (k + 1)) :=
      (decAdvance_more (length ▸ hk)).trans (congrArg Host.Outcome.next (decDelivered_next byte))
    have steps : k + 1 + (k + 1 + 7) / 8 = k + (k + 7) / 8 + (1 + ((k + 1 + 7) / 8 - (k + 7) / 8)) := by omega
    rw [steps, runSteps_next (ih (by omega)), decAt_bit byte (answers _ _ byte), more]

/-- R162, R170: all the bits, the results and the end of the command. -/
theorem decAt_run_all {s : State} {bytes : List Byte} {n : Number}
    (length : 8 * bytes.length = (latchOperands false s).descriptor.n) (positive : 0 < bytes.length)
    (answers : SourceDelivers s bytes)
    (number : n = decodeBits (bitsOfBytes bytes) (latchOperands false s).descriptor)
    (fits : resultFits s.params n = true) :
    runSteps (8 * bytes.length + bytes.length) (decAt s bytes 0) =
      .next (complete (writeResult n (decAt s bytes (8 * bytes.length)))) := by
  obtain ⟨k, hk⟩ := Nat.exists_eq_add_of_le' (show 1 ≤ 8 * bytes.length by omega)
  have byte := List.getElem?_eq_getElem (show k / 8 < bytes.length by omega)
  have allBits : (decAt s bytes (k + 1)).buf = bitsOfBytes bytes :=
    List.take_of_length_le (by rw [bitsOfBytes_length, hk])
  have result : decodeBits (decAt s bytes (k + 1)).buf (decAt s bytes (k + 1)).lat.descriptor = n := by
    rw [allBits, number]
    rfl
  have last : (decDelivered s bytes k).k + 1 = (decDelivered s bytes k).lat.descriptor.n := hk.symm.trans length
  have steps : 8 * bytes.length + bytes.length = k + (k + 7) / 8 + (1 + ((k + 1 + 7) / 8 - (k + 7) / 8)) := by omega
  rw [steps, runSteps_next (decAt_run length answers (by omega)), decAt_bit byte (answers _ _ byte),
    decAdvance_last last, ← last]
  rw [show (decDelivered s bytes k).k = k from rfl, decDelivered_next byte, decFinish_fits (by rw [result]; exact fits),
    result, hk]

/-- R90, R160: after its acceptance a `DEC` does what it does set up, before its first bit. -/
theorem step_dec_accepted {s : State} (bytes : List Byte) (quiet : s.pend = .none)
    (format : checkFormat s.params (latchOperands false s).descriptor = none) :
    step (accept .dec false { s with inputs := [] }) = step (decAt s bytes 0) := by
  have ready : decReady (accept .dec false { s with inputs := [] }) = decAt s bytes 0 := by
    simp [decReady, readerInit, accept, latchOperands, decAt, quiet]
  rw [step_decAt, ← ready]
  exact (step_own rfl rfl rfl).trans ((exec_dec_open rfl rfl rfl).trans (decOpen_ok format))

/-- Settles O35: acceptance, `N` bits at a step each, and an answer for each of the `N / 8` bytes. -/
theorem decRunDecodesTheSource : Obligations.DecRunDecodesTheSource := by
  rintro s bytes rest _ n idle quiet hi rfl format count source number fits
  obtain ⟨whole, -⟩ := checkFormat_none format
  have positive := eight_le_of_checkFormat format
  have length : 8 * bytes.length = (latchOperands false s).descriptor.n := by omega
  have accepts : step s = .next (accept .dec false { s with inputs := [] }) :=
    (step_command hi idle rfl).trans (exec_of_not_busy (s := { s with inputs := [] }) idle .dec)
  have answers : SourceDelivers s bytes := fun j b byte => by
    have hj : j < bytes.length := (List.getElem?_eq_some_iff.mp byte).1
    rw [source, List.getElem?_append_left (by simpa using hj), List.getElem?_map, byte]
    rfl
  have all := decAt_run_all length (by omega) answers number fits
  have left : s.source.drop bytes.length = rest := by rw [source]; exact List.drop_left' (by simp)
  have consumed : (8 * bytes.length + 7) / 8 = bytes.length := by omega
  have noBit : 8 * bytes.length % 8 = 0 := by omega
  have allBits : (bitsOfBytes bytes).take (8 * bytes.length) = bitsOfBytes bytes :=
    List.take_of_length_le (by rw [bitsOfBytes_length])
  rw [← length, Nat.mul_div_cancel_left _ (by decide), Nat.add_assoc,
    runSteps_next ((runSteps_one s).trans accepts),
    runSteps_congr (by omega) (step_dec_accepted bytes quiet format), all]
  simp only [decAt, complete, endCommand, writeResult, consumed, noBit, allBits, left, quiet, List.take_length, if_true]

end Sys2Proof.Machine
end

section
/-!
PROOFS. Eight `WRB` commands in a row (R118, R120): each costs an acceptance, the step that stores its bit, and the step
in which the host finds `BUSY = 0`; the eighth costs one more, since it sends the byte and is answered.
-/
namespace Sys2Proof.Machine

/-- What a host that writes a bit and waits for it does (R95). -/
def wrbMoves (b : Bool) : List Input := [.write 0x0 (encode (.wrb b)).toNat, .wait]

/-- The block is idle after `k` of the bits: they stand in the accumulator, and the host has the others yet to write. -/
structure WroteBits (s : State) (bits : List Bool) (k : Nat) (t : State) : Prop where
  idle   : t.status.busy = false
  quiet  : t.pend = .none
  status : { t.status with done := true, err := 0 } = { s.status with done := true, err := 0 }
  sunk   : t.sunk = s.sunk
  sink   : t.sink = s.sink
  mask   : t.wmask = (0x80 : Byte) >>> k
  part   : t.wacc = byteOfBits (bits.take k)
  inputs : t.inputs = (bits.drop k).flatMap wrbMoves

theorem decode_wrb_word (b : Bool) : decode (BitVec.ofInt 8 (encode (.wrb b)).toNat) = .ok (.wrb b) := by
  cases b <;> rfl

/-- The `WRB` of bit `b` accepted in `t`, its host waiting, with `more` to come after that. -/
def wrbAccepted (b : Bool) (more : List Input) (t : State) : State :=
  accept .wrb b { t with inputs := .wait :: more }

/-- The `WRB` whose bit has completed a byte, which the sink has yet to take. -/
def wrbSending (out : Byte) (s : State) : State := { s with wacc := 0x00, wmask := 0x80, pend := .snk out }

/-- R90, R118: the step that accepts the `WRB` of bit `b`. -/
theorem step_wrb_accept {t : State} {b : Bool} {more : List Input} (hi : t.inputs = wrbMoves b ++ more)
    (idle : t.status.busy = false) : step t = .next (wrbAccepted b more t) :=
  (step_command hi idle (decode_wrb_word b)).trans
    (exec_of_not_busy (s := { t with inputs := .wait :: more }) idle (.wrb b))

/-- R95, R118: a `WAIT` lets a `WRB` move that no failure flag refuses. -/
theorem step_wait_wrb {t : State} {more : List Input} (hi : t.inputs = .wait :: more) (busy : t.status.busy = true)
    (phase : t.phase = .wrb) (allowed : t.status.wfail = false) :
    step t = writeBit t.lat.wbit (fun u => .next (complete u)) t := by
  rw [step_wait_running hi busy (i := .wrb t.lat.wbit) (by simp [runningCommand, phase]),
    exec_wrb_of_not_refused _ busy phase (by simp [allowed])]

theorem runSteps_two {s t u : State} (first : step s = .next t) (second : step t = .next u) :
    runSteps 2 s = .next u := by
  rw [runSteps_succ, first, andThen_next, runSteps_one, second]

theorem WroteBits.wfail {s t : State} {bits : List Bool} {k : Nat} (done : WroteBits s bits k t)
    (allowed : s.status.wfail = false) : t.status.wfail = false :=
  (congrArg Status.wfail done.status).trans allowed

theorem WroteBits.next_moves {s t : State} {bits : List Bool} {k : Nat} {b : Bool} (done : WroteBits s bits k t)
    (bit : bits[k]? = some b) : t.inputs = wrbMoves b ++ (bits.drop (k + 1)).flatMap wrbMoves := by
  rw [done.inputs, drop_eq_cons bit]
  rfl

/-- R113: the accumulator after bit `k`. -/
theorem WroteBits.accumulate {s t u : State} {bits : List Bool} {k : Nat} {b : Bool} (done : WroteBits s bits k t)
    (hk : k < 8) (bit : bits[k]? = some b) (mask : u.wmask = t.wmask) (part : u.wacc = t.wacc) :
    accumulate b u = byteOfBits (bits.take (k + 1)) := by
  have hlen : k < bits.length := (List.getElem?_eq_some_iff.mp bit).1
  have length : (bits.take k).length = k := by simp [hlen.le]
  have mask : u.wmask = (0x80 : Byte) >>> (bits.take k).length := by rw [length, mask, done.mask]
  rw [(take_succ_getLastD bit false).1]
  exact accumulate_byteOfBits b (by omega) mask (part.trans done.part)

/-- R118: the status after a `WRB` that ended without error is the one before it, up to `DONE` and `ERR`. -/
theorem WroteBits.status_complete {s t : State} {bits : List Bool} {k : Nat} (done : WroteBits s bits k t) :
    { t.status with busy := false, done := true, err := 0 } = { s.status with done := true, err := 0 } := by
  rw [← done.status, ← done.idle]

/-- R118: a `WRB` before the eighth stores its bit, in three steps. -/
theorem WroteBits.step {s t : State} {bits : List Bool} {k : Nat} {b : Bool} (done : WroteBits s bits k t)
    (allowed : s.status.wfail = false) (hk : k < 7) (bit : bits[k]? = some b) :
    ∃ u, runSteps 3 t = .next u ∧ WroteBits s bits (k + 1) u := by
  have moves := done.next_moves bit
  set more := (bits.drop (k + 1)).flatMap wrbMoves
  have room : t.wmask >>> 1 ≠ 0x00 := by
    rw [done.mask, ne_eq, mask_leaves_iff k (by omega)]
    omega
  have stores : Machine.step (wrbAccepted b more t) = .next (complete { wrbAccepted b more t with
      wacc := Machine.accumulate b (wrbAccepted b more t), wmask := t.wmask >>> 1 }) :=
    (step_wait_wrb (t := wrbAccepted b more t) rfl rfl rfl (done.wfail allowed)).trans
      (writeBit_store (s := wrbAccepted b more t) done.quiet room)
  have first := runSteps_two (step_wrb_accept moves done.idle) stores
  refine ⟨_, (runSteps_next (b := 1) first).trans ((runSteps_one _).trans (step_wait_idle rfl rfl)), ?_⟩
  exact
    { idle := rfl
      quiet := done.quiet
      status := done.status_complete
      sunk := done.sunk
      sink := done.sink
      mask := by rw [← mask_ushiftRight_one, ← done.mask]; rfl
      part := done.accumulate (by omega) bit rfl rfl
      inputs := rfl }

/-- R118, R120: the eighth `WRB` sends the byte, and ends when the sink has taken it, in four steps. -/
theorem WroteBits.last {s t : State} {bits : List Bool} {b : Bool} {rest : List SnkAnswer}
    (done : WroteBits s bits 7 t) (allowed : s.status.wfail = false) (length : bits.length = 8)
    (bit : bits[7]? = some b) (answer : s.sink = .ok :: rest) :
    ∃ u, runSteps 4 t = .next u ∧ u.inputs = [] ∧ u.sunk = s.sunk ++ [byteOfBits bits] ∧ u.sink = rest ∧
      u.wacc = 0x00 ∧ u.wmask = 0x80 ∧ u.status = { s.status with done := true, err := 0 } := by
  have moves := done.next_moves bit
  have noMore : (bits.drop (7 + 1)).flatMap wrbMoves = [] := by
    rw [List.drop_of_length_le (by omega)]
    rfl
  rw [noMore] at moves
  have full : t.wmask >>> 1 = 0x00 := by rw [done.mask, mask_leaves_iff 7 (by decide)]
  have byte : Machine.accumulate b (wrbAccepted b [] t) = byteOfBits bits := by
    rw [done.accumulate (u := wrbAccepted b [] t) (by decide) bit rfl rfl, List.take_of_length_le (by omega)]
  have sends : Machine.step (wrbAccepted b [] t) = .next (wrbSending (byteOfBits bits) (wrbAccepted b [] t)) := by
    rw [← byte]
    exact (step_wait_wrb (t := wrbAccepted b [] t) rfl rfl rfl (done.wfail allowed)).trans
      (writeBit_send (s := wrbAccepted b [] t) done.quiet full)
  have takes : Machine.step (wrbSending (byteOfBits bits) (wrbAccepted b [] t)) =
      .next (complete (sinkAnswered (byteOfBits bits) rest (wrbSending (byteOfBits bits) (wrbAccepted b [] t)))) :=
    (step_wait_wrb (t := wrbSending _ (wrbAccepted b [] t)) rfl rfl rfl (done.wfail allowed)).trans
      (writeBit_taken (s := wrbSending _ (wrbAccepted b [] t)) rfl (done.sink.trans answer))
  have first := runSteps_two (step_wrb_accept moves done.idle) sends
  have second := runSteps_two takes (step_wait_idle rfl rfl)
  refine ⟨_, (runSteps_next (b := 2) first).trans second, rfl, ?_, rfl, rfl, rfl, done.status_complete⟩
  exact congrArg (· ++ [byteOfBits bits]) done.sunk

theorem WroteBits.run {s : State} {bits : List Bool} (start : WroteBits s bits 0 s)
    (allowed : s.status.wfail = false) {k : Nat} (hk : k ≤ 7) (length : bits.length = 8) :
    ∃ t, runSteps (3 * k) s = .next t ∧ WroteBits s bits k t := by
  induction k with
  | zero => exact ⟨s, rfl, start⟩
  | succ k ih =>
    obtain ⟨t, before, done⟩ := ih (by omega)
    obtain ⟨u, next, done⟩ := done.step allowed (by omega) (List.getElem?_eq_getElem (by omega))
    exact ⟨u, (runSteps_next before).trans next, done⟩

/-- Settles O14: seven bits are stored in three steps each, and the eighth sends the byte in four. -/
theorem eightWrbSendOneByte : Obligations.EightWrbSendOneByte := by
  intro s bits rest length idle quiet allowed wacc wmask hi answer
  have start : WroteBits s bits 0 s :=
    { idle := idle, quiet := quiet, status := rfl, sunk := rfl, sink := rfl, mask := wmask
      part := wacc.trans byteOfBits_nil.symm, inputs := hi }
  obtain ⟨t, seven, done⟩ := start.run allowed (le_refl 7) length
  obtain ⟨u, eighth, result⟩ := done.last allowed length (List.getElem?_eq_getElem (by omega)) answer
  exact ⟨u, (runSteps_next (b := 4) seven).trans eighth, result⟩

end Sys2Proof.Machine
end

section
/-!
PROOFS. Words and their fields: the opcode map and its encoder (R89, R90), the words a host reads (R23, R38, R39), the
reset values (R210), a free mantissa (log entry 5), and the expansions of the assembler (R95, R96).
-/
namespace Sys2Proof.Machine

/-- Settles O1: the decoder computes each word of the map. -/
theorem opcodeMapDecodes : Obligations.OpcodeMapDecodes := ⟨rfl, rfl, rfl, rfl, rfl, rfl⟩

/-- R89: a command word is its three fields. -/
theorem ctrl_fields : ∀ v : Byte, v = ctrlReserved v ++ BitVec.ofBool (ctrlWbit v) ++ ctrlOp v := by decide

/-- R90: what the tests of the decoder say of the three fields of a word that it accepts. -/
theorem fields_of_decode_ok {v : Byte} {i : Instr} (h : decode v = .ok i) :
    ctrlReserved v = 0 ∧ ctrlWbit v = wbitOf i ∧ ctrlOp v = opOf i := by
  unfold decode at h
  split_ifs at h with reserved wrb wbit enc dec rdb sinit <;> cases h
  · exact ⟨not_not.mp reserved, rfl, wrb⟩
  · exact ⟨not_not.mp reserved, Bool.eq_false_iff.mpr wbit, enc⟩
  · exact ⟨not_not.mp reserved, Bool.eq_false_iff.mpr wbit, dec⟩
  · exact ⟨not_not.mp reserved, Bool.eq_false_iff.mpr wbit, rdb⟩
  · exact ⟨not_not.mp reserved, Bool.eq_false_iff.mpr wbit, sinit⟩

/-- Settles O2: each word decodes to its own command, and the tests of the decoder fix the three fields of a word. -/
theorem decodeInvertsEncode : Obligations.DecodeInvertsEncode := by
  refine ⟨fun i _ => ?_, fun v i h => ?_⟩
  · cases i with
    | enc => exact Laws.DecodeEncode.enc
    | dec => exact Laws.DecodeEncode.dec
    | rdb => exact Laws.DecodeEncode.rdb
    | wrb w => exact Laws.DecodeEncode.wrb w
    | sinit => exact Laws.DecodeEncode.sinit
  · obtain ⟨reserved, wbit, op⟩ := fields_of_decode_ok h
    rw [ctrl_fields v, reserved, wbit, op, encode]

/-- Settles O51: the reset values, register by register. -/
theorem resetValuesAsRead : Obligations.ResetValuesAsRead :=
  ⟨by decide, by decide, rfl, rfl, rfl, rfl⟩

/-- R34, log entry 5: an unbounded `IN_MANT` takes a free value for a negative one. -/
theorem writeMantissa_negative {s : State} (unbounded : s.params.mantW = none) {v : Int} (negative : v < 0) :
    writeMantissa v s = { s with inMant := Config.freeMantissa s.draws, draws := s.draws + 1 } := by
  simp [writeMantissa, unbounded, negative]

/-- Settles O54: the number is the free value drawn. -/
theorem negativeMantissaIsFree : Obligations.NegativeMantissaIsFree := by
  intro s v rest hi unbounded negative
  have written : step s = .next (writeMantissa v { s with inputs := rest }) := step_write_of_ne_ctrl hi (by decide)
  exact ⟨_, written.trans (congrArg _ (writeMantissa_negative (s := { s with inputs := rest }) unbounded negative))⟩

/-- R23: the bits of `STATUS`, from `BUSY` up. -/
theorem statusWord_getLsbD (t : Status) (i : Nat) : (statusWord t).getLsbD i =
    if i < 1 then decide (i = 0) && t.busy else if i - 1 < 1 then decide (i - 1 = 0) && t.done
    else if i - 1 - 1 < 3 then t.err.getLsbD (i - 1 - 1)
    else if i - 1 - 1 - 3 < 1 then decide (i - 1 - 1 - 3 = 0) && t.rbit
    else if i - 1 - 1 - 3 - 1 < 1 then decide (i - 1 - 1 - 3 - 1 = 0) && t.rfail
    else decide (i - 1 - 1 - 3 - 1 - 1 = 0) && t.wfail := by
  simp only [statusWord, BitVec.getLsbD_append, BitVec.getLsbD_ofBool]

/-- R26: the field `ERR` of `STATUS`. -/
theorem statusWord_err (t : Status) : (statusWord t).extractLsb' 2 3 = t.err := by
  refine BitVec.eq_of_getLsbD_eq fun i hi => ?_
  have index : 2 + i - 1 - 1 = i := by omega
  rw [BitVec.getLsbD_extractLsb', statusWord_getLsbD, if_neg (by omega), if_neg (by omega), index, if_pos hi]
  simp [hi]

/-- Settles O56: the words are their fields side by side; every other register reads what it holds. -/
theorem statusAndAdapterWords : Obligations.StatusAndAdapterWords := by
  refine fun s => ⟨?_, ?_, statusWord_err s.status, ?_, ?_, ?_, BitVec.extractLsb'_append_eq_right,
    BitVec.extractLsb'_append_eq_left, BitVec.extractLsb'_append_eq_right, BitVec.extractLsb'_append_eq_left, rfl, rfl,
    rfl, rfl, rfl, rfl, rfl, rfl, rfl, rfl, rfl, rfl, rfl⟩
  all_goals exact statusWord_getLsbD s.status _

/-- Settles O60: each line is the moves of its table row; only the kind word of `LDNUM` depends on an operand. -/
theorem assemblerExpansions : Obligations.AssemblerExpansions := by
  refine ⟨rfl, rfl, rfl, rfl, rfl, rfl, fun _ _ => rfl, fun _ => rfl, fun _ _ _ => rfl, fun _ => rfl, rfl, rfl, rfl,
    rfl, rfl, fun g _ _ => ?_, rfl, rfl⟩
  cases g <;> rfl

end Sys2Proof.Machine
end
